-- ==== Sys2Proof/Word.lean ====
section
/-! DEFINITION. The word types of the core (spec/00_scope.md R8, R10): every value is unsigned. -/

namespace Sys2Proof

/-- A register, a coefficient word or a command word (W = 32, R8). -/
abbrev Word := BitVec 32

/-- A digit of DMEM, or one byte of any memory (R33). -/
abbrev Byte := BitVec 8

/-- A word of WMEM (WW = 128, R8, R32). -/
abbrev Wide := BitVec 128

end Sys2Proof
end

