-- ==== Sys2Proof/Syntax.lean ====
section
/-! DEFINITION. The commands of the NTTC command set, one constructor for each row of spec/opcode_table.json
(spec/30_encoding.md R72). A field is a number of exactly its width (R71), so that every word's fields have a term. -/

namespace Sys2Proof

/-- MSEL, 2 bits: a modulus descriptor; 3 names none (R76). -/
abbrev ModSel := Fin 4

/-- LOG2N, 5 bits: the array length is 2^LOG2N (R75). -/
abbrev Log2N := Fin 32

/-- BA, BB or BC, 3 bits: a bank (R77). -/
abbrev BankIx := Fin 8

/-- DIG, 4 bits: decimal digits a coefficient contributes (R74). -/
abbrev DigitCount := Fin 16

/-- A command (R72) with the fields its opcode uses (R73). -/
inductive Instr where
  /-- SR <- mulmod(SA, SB, P), R94. -/
  | mulmod (msel : ModSel)
  /-- SR <- powmod(SA, SB, P), R95. -/
  | powmod (msel : ModSel)
  /-- SR <- invmod(SA, P), R96. -/
  | invmod (msel : ModSel)
  /-- Forward transform of a bank, R115. -/
  | nttf (msel : ModSel) (log2n : Log2N) (ba : BankIx)
  /-- Inverse transform of a bank, R116. -/
  | ntti (msel : ModSel) (log2n : Log2N) (ba : BankIx)
  /-- Pointwise product of two banks into the first, R97. -/
  | pmul (msel : ModSel) (log2n : Log2N) (ba bb : BankIx)
  /-- Chinese remainders of three banks into WMEM, R133. -/
  | crt3 (log2n : Log2N) (ba bb bc : BankIx)
  /-- Carry walk of a bank (`w` false) or of WMEM (`w` true) into DMEM, R146. -/
  | carry (log2n : Log2N) (ba : BankIx) (dig : DigitCount) (w : Bool)
deriving DecidableEq, Repr

end Sys2Proof
end

