-- ==== Sys2Proof/WellFormed.lean ====
section
/-! DEFINITION. The conditions of spec/30_encoding.md R73, R76 and R78 that a mask cannot express. Field values that are
only out of range for the current state (LOG2N > 19, DIG outside 1..9) are no encoding errors (R80): not checked here. -/

namespace Sys2Proof

/-- MSEL = 3 names no descriptor (R76). -/
def ModSel.wf (k : ModSel) : Bool := k != 3

/-- `i` is the reading of a well-formed word: MSEL is not 3 where it is used (R76), and a CARRY of WMEM has BA = 0
(R78). -/
def Instr.wf : Instr → Bool
  | .mulmod k => ModSel.wf k
  | .powmod k => ModSel.wf k
  | .invmod k => ModSel.wf k
  | .nttf k _ _ => ModSel.wf k
  | .ntti k _ _ => ModSel.wf k
  | .pmul k _ _ _ => ModSel.wf k
  | .crt3 _ _ _ _ => true
  | .carry _ ba _ w => !w || ba == 0

end Sys2Proof
end

