-- ==== Sys2Proof/Decode.lean ====
section
/-! DEFINITION. From command words to commands and back (spec/30_encoding.md): the fields of R71, the opcodes of R72, the
field-use table of R73, a decoder that is total and rejects by name, and the encoder of R83. -/

namespace Sys2Proof

/-- The fields of the command word (R71). -/
inductive Field where
  | op | msel | log2n | ba | bb | bc | dig | w | rsv
deriving DecidableEq, Repr

/-- The lowest bit of a field (R71). -/
def Field.lo : Field → Nat
  | .op => 28 | .msel => 26 | .log2n => 21 | .ba => 18 | .bb => 15 | .bc => 12 | .dig => 8 | .w => 7 | .rsv => 0

/-- The bits of a field (R71). -/
def Field.width : Field → Nat
  | .op => 4 | .msel => 2 | .log2n => 5 | .ba => 3 | .bb => 3 | .bc => 3 | .dig => 4 | .w => 1 | .rsv => 7

/-- The unsigned number in a field of a command word (R10, R71). -/
def Field.get (f : Field) (word : Word) : Nat := word.toNat / 2 ^ f.lo % 2 ^ f.width

/-- The operations (R72). -/
inductive Opcode where
  | mulmod | powmod | invmod | nttf | ntti | pmul | crt3 | carry
deriving DecidableEq, Repr

/-- The value of the OP field (R72). -/
def Opcode.code : Opcode → Nat
  | .mulmod => 0x1 | .powmod => 0x2 | .invmod => 0x3 | .nttf => 0x4
  | .ntti => 0x5 | .pmul => 0x6 | .crt3 => 0x7 | .carry => 0x8

/-- The operation an OP field selects; 0x0 and 0x9 to 0xF select none (R72, R79). -/
def Opcode.ofCode : Nat → Option Opcode
  | 0x1 => some .mulmod
  | 0x2 => some .powmod
  | 0x3 => some .invmod
  | 0x4 => some .nttf
  | 0x5 => some .ntti
  | 0x6 => some .pmul
  | 0x7 => some .crt3
  | 0x8 => some .carry
  | _ => none

/-- The fields marked "0" for an opcode in the field-use table (R73). CARRY's BA, which must be 0 only when W = 1,
is left to `Instr.wf`. -/
def Opcode.mustBeZero : Opcode → List Field
  | .mulmod => [.log2n, .ba, .bb, .bc, .dig, .w, .rsv]
  | .powmod => [.log2n, .ba, .bb, .bc, .dig, .w, .rsv]
  | .invmod => [.log2n, .ba, .bb, .bc, .dig, .w, .rsv]
  | .nttf => [.bb, .bc, .dig, .w, .rsv]
  | .ntti => [.bb, .bc, .dig, .w, .rsv]
  | .pmul => [.bc, .dig, .w, .rsv]
  | .crt3 => [.msel, .dig, .w, .rsv]
  | .carry => [.msel, .bb, .bc, .rsv]

/-- The bits of a word that a row of the opcode table fixes (R73). -/
def Opcode.mask : Opcode → Word
  | .mulmod => 0xF3FFFFFF | .powmod => 0xF3FFFFFF | .invmod => 0xF3FFFFFF | .nttf => 0xF003FFFF
  | .ntti => 0xF003FFFF | .pmul => 0xF0007FFF | .crt3 => 0xFC000FFF | .carry => 0xFC03F07F

/-- What a row of the opcode table fixes those bits to (R73). -/
def Opcode.fixedBits : Opcode → Word
  | .mulmod => 0x10000000 | .powmod => 0x20000000 | .invmod => 0x30000000 | .nttf => 0x40000000
  | .ntti => 0x50000000 | .pmul => 0x60000000 | .crt3 => 0x70000000 | .carry => 0x80000000

/-- The row of the opcode table a command belongs to (R72). -/
def Instr.opcode : Instr → Opcode
  | .mulmod _ => .mulmod
  | .powmod _ => .powmod
  | .invmod _ => .invmod
  | .nttf _ _ _ => .nttf
  | .ntti _ _ _ => .ntti
  | .pmul _ _ _ _ => .pmul
  | .crt3 _ _ _ _ => .crt3
  | .carry _ _ _ _ => .carry

/-- Why a word is not well-formed (R79). Each is reported as ILLEGAL_CMD (R161). -/
inductive DecodeError where
  /-- OP is 0x0 or 0x9 to 0xF. -/
  | unassignedOpcode (op : Nat)
  /-- A field that the opcode does not use, or RSV, is not 0. -/
  | fieldMustBeZero (f : Field)
  /-- MSEL = 3 in a command that uses MSEL. -/
  | noSuchDescriptor
  /-- CARRY with W = 1 and BA not 0. -/
  | wideSourceWithBank
deriving DecidableEq, Repr

/-- MSEL as a term. -/
def mselOf (word : Word) : ModSel := Fin.ofNat 4 (Field.get .msel word)

/-- LOG2N as a term. -/
def log2nOf (word : Word) : Log2N := Fin.ofNat 32 (Field.get .log2n word)

/-- BA, BB or BC as a term. -/
def bankOf (f : Field) (word : Word) : BankIx := Fin.ofNat 8 (Field.get f word)

/-- DIG as a term. -/
def digOf (word : Word) : DigitCount := Fin.ofNat 16 (Field.get .dig word)

/-- W as a term. -/
def wOf (word : Word) : Bool := Field.get .w word == 1

/-- The command of an opcode with its operand fields taken from a word (R71, R73). -/
def Opcode.build (word : Word) : Opcode → Instr
  | .mulmod => .mulmod (mselOf word)
  | .powmod => .powmod (mselOf word)
  | .invmod => .invmod (mselOf word)
  | .nttf => .nttf (mselOf word) (log2nOf word) (bankOf .ba word)
  | .ntti => .ntti (mselOf word) (log2nOf word) (bankOf .ba word)
  | .pmul => .pmul (mselOf word) (log2nOf word) (bankOf .ba word) (bankOf .bb word)
  | .crt3 => .crt3 (log2nOf word) (bankOf .ba word) (bankOf .bb word) (bankOf .bc word)
  | .carry => .carry (log2nOf word) (bankOf .ba word) (digOf word) (wOf word)

/-- Why a command that is not well-formed is refused: a CARRY for its bank, every other for its MSEL. -/
def Instr.illFormedReason : Instr → DecodeError
  | .mulmod _ => .noSuchDescriptor
  | .powmod _ => .noSuchDescriptor
  | .invmod _ => .noSuchDescriptor
  | .nttf _ _ _ => .noSuchDescriptor
  | .ntti _ _ _ => .noSuchDescriptor
  | .pmul _ _ _ _ => .noSuchDescriptor
  | .crt3 _ _ _ _ => .noSuchDescriptor
  | .carry _ _ _ _ => .wideSourceWithBank

/-- A word of a known opcode: its unused fields are 0 and its operands are well-formed (R73, R79). -/
def Opcode.decode (o : Opcode) (word : Word) : Except DecodeError Instr :=
  match o.mustBeZero.find? (fun f => f.get word != 0) with
  | some f => .error (.fieldMustBeZero f)
  | none =>
    let i := o.build word
    if i.wf then .ok i else .error i.illFormedReason

/-- The decoder: a well-formed word gives its command, every other word the reason it is ILLEGAL_CMD (R73, R79). -/
def decode (word : Word) : Except DecodeError Instr :=
  match Opcode.ofCode (Field.get .op word) with
  | none => .error (.unassignedOpcode (Field.get .op word))
  | some o => o.decode word

/-- The encoding arithmetic of R83; a field an opcode does not use is given as 0. -/
def encodeFields (op msel log2n ba bb bc dig w : Nat) : Word :=
  BitVec.ofNat 32
    (op * 2 ^ 28 + msel * 2 ^ 26 + log2n * 2 ^ 21 + ba * 2 ^ 18 + bb * 2 ^ 15 + bc * 2 ^ 12 + dig * 2 ^ 8 + w * 2 ^ 7)

/-- The command word of a command (R72, R73, R83). -/
def encode : Instr → Word
  | .mulmod k => encodeFields 0x1 k 0 0 0 0 0 0
  | .powmod k => encodeFields 0x2 k 0 0 0 0 0 0
  | .invmod k => encodeFields 0x3 k 0 0 0 0 0 0
  | .nttf k l a => encodeFields 0x4 k l a 0 0 0 0
  | .ntti k l a => encodeFields 0x5 k l a 0 0 0 0
  | .pmul k l a b => encodeFields 0x6 k l a b 0 0 0
  | .crt3 l a b c => encodeFields 0x7 0 l a b c 0 0
  | .carry l a d w => encodeFields 0x8 0 l a 0 0 d w.toNat

/-- The command word whose bits are `w`, of which the table gives `nbits`: bits above them are 0. Every command is one
32-bit word (R70). -/
def tableWord (nbits w : Nat) : Word := BitVec.ofNat 32 (w % 2 ^ nbits)

/-- What the decoder reads from a word of the opcode table; none where it refuses. -/
def decodeTableWord (nbits w : Nat) : Option Instr :=
  match decode (tableWord nbits w) with
  | .ok i => some i
  | .error _ => none

end Sys2Proof
end

