-- ==== Sys2Proof/Config.lean ====
section
/-! DEFINITION. The implementation parameters with the values this core takes (spec/00_scope.md R8), the address map
(spec/20_memory.md R51), the reset moduli (spec/10_state.md R28), and the free values the spec leaves open. -/

namespace Sys2Proof.Config

/-- The modulus descriptors a reset loads: the parameter `RESET_MODULI` (R28, OPEN-6). -/
structure ResetModuli where
  p0 : Word
  g0 : Word
  p1 : Word
  g1 : Word
  p2 : Word
  g2 : Word
deriving DecidableEq, Repr

/-- The defaults of R28. -/
def resetModuli : ResetModuli :=
  { p0 := 998244353, g0 := 3, p1 := 167772161, g1 := 3, p2 := 469762049, g2 := 3 }

/-- The parameters a model takes as arguments (R8). The map of R51 has room for at most 2^19 elements in a bank and for
8 banks, and R51 speaks of smaller values only. -/
structure Params where
  /-- LOG2_NMAX, at most 19 (R8, R51). -/
  log2Nmax : Fin 20
  /-- NBANKS - 1, as PARAMS reports it (R21). -/
  lastBank : Fin 8
  /-- RESET_MODULI (R28). -/
  moduli : ResetModuli
deriving DecidableEq, Repr

/-- The values of R8. -/
def defaults : Params := { log2Nmax := 19, lastBank := 7, moduli := resetModuli }

/-- NMAX = 2^LOG2_NMAX, the elements of a bank and of WMEM (R8). -/
def Params.nmax (p : Params) : Nat := 2 ^ p.log2Nmax.val

/-- NBANKS (R8). -/
def Params.nbanks (p : Params) : Nat := p.lastBank.val + 1

/-- DCAP, the digits DMEM holds (R8, R33, R151). -/
def Params.dcap (p : Params) : Nat := 9 * p.nmax + 48

/-- NMOD, the modulus descriptors (R8). -/
def nmod : Nat := 3

/-- MAXDIG, the largest DIG (R8). -/
def maxDig : Nat := 9

/-- The bytes of the aperture (R8, R50). -/
def apertureBytes : Nat := 2 ^ 26

/-- The bytes of the register block (R51). -/
def regBlockBytes : Nat := 0x1000

/-- Offset of BANK[0][0] (R51). -/
def bankBase : Nat := 0x1000000

/-- Bytes from one bank to the next, for every LOG2_NMAX (R51). -/
def bankStride : Nat := 0x200000

/-- Banks the map has room for: a bank field is 3 bits wide (R51, R77). -/
def bankSlots : Nat := 8

/-- Offset of WMEM[0] (R51). -/
def wmemBase : Nat := 0x2000000

/-- First offset past the wide memory's region (R51). -/
def wmemEnd : Nat := 0x2800000

/-- Offset of DMEM[0] (R51). -/
def dmemBase : Nat := 0x3000000

/-- FREE VALUE (log 2). What the byte at an aperture offset holds when nothing has written it since the `epoch`-th
reset: the spec leaves it unspecified and the same at every read (R39, U1). Nothing can be proved of it. -/
opaque powerOnByte : (epoch : Nat) → (offset : Nat) → Byte

/-- FREE VALUE (log 3). How many host inputs the engine lets pass before it completes the command that was accepted
as number `draw`: the parameter `LATENCY` (R200, U8, OPEN-5), which the spec leaves to the implementation and which may
depend on the opcode, n and the operand values: here on the word, on the operand registers and on what memory holds (the
cells written since the `epoch`-th reset). -/
opaque latency :
  (draw epoch : Nat) → (word : Word) → (operands : List Word) → (written : List (Nat × Byte)) → Nat

end Sys2Proof.Config
end

