-- ==== Sys2Proof/Machine/State.lean ====
section
/-! DEFINITION. The state of the machine as plain data (spec/10_state.md R20 to R39), the inputs and answers of the host
interface (spec/20_memory.md R52, R60), and the state after reset (R38). -/

namespace Sys2Proof.Machine

/-- The error codes of R160 other than NONE. -/
inductive ErrorCode where
  | illegalCmd | badModulus | sizeTooLarge | badSize | badDigits | invUndef
deriving DecidableEq, Repr

/-- The fields of STATUS that are not reserved (R23). -/
structure Status where
  /-- Bit 0: a command is pending. -/
  busy : Bool
  /-- Bit 1: a command completed without error. -/
  done : Bool
  /-- Bit 2: a command completed with an error. -/
  err : Bool
  /-- Bits 7 to 4. -/
  errCode : BitVec 4
deriving DecidableEq, Repr

/-- A transaction of a host: `MemRead(addr, width)` or `MemWrite(addr, width, value)`, the width in bytes (R52, R53).
The address is an offset of the aperture, or a number past its end for one outside it (R54). -/
inductive Tx where
  | read (width addr : Nat)
  | write (width addr : Nat) (value : Word)
deriving DecidableEq, Repr

/-- A transaction with the number of the host that issues it (R65). -/
structure Issue where
  host : Nat
  tx : Tx
deriving DecidableEq, Repr

/-- What the outside world can do next: a host issues a transaction (R52), or reset is asserted (R190). -/
inductive Input where
  | issue (q : Issue)
  | reset
deriving DecidableEq, Repr

/-- The two responses of R52. -/
inductive Response where
  | okay
  | busErr
deriving DecidableEq, Repr

/-- A transaction that was answered, and its answer; a write carries no value (R52). -/
structure Answer where
  host : Nat
  tx : Tx
  response : Response
  value : Option Word
deriving DecidableEq, Repr

/-- Why the machine stops. -/
inductive Fault where
  /-- Raised by `step` when a host that has been answered BUSERR would go on to another transaction: "A model of a host
  program treats a BUSERR as a fault of that program" (R176, R54, log 6). Safe: the hardware goes on. -/
  | hostBusError (host : Nat)
deriving DecidableEq, Repr

/-- Why an instruction has no meaning. -/
inductive Refusal where
  /-- Raised by `exec` for an instruction that has no meaning yet; no arm of this model does. Safe. -/
  | notModelled (mnemonic : String)
deriving DecidableEq, Repr

/-- The core's parameters, then everything the spec gives the machine (R20 to R36), then the model's own fields. PARAMS is a constant (R21) and IRQ
a function (R37). -/
structure State where
  /-- The implementation parameters (R8), which no step changes (log 7). -/
  params : Config.Params
  /-- CTRL bit 0 (R22). -/
  irqEn : Bool
  /-- STATUS (R23); its BUSY bit is the presence of a pending command (R36). -/
  status : Status
  /-- CMD (R24). -/
  cmd : Word
  /-- SA (R25). -/
  sa : Word
  /-- SB (R25). -/
  sb : Word
  /-- SR (R26). -/
  sr : Word
  /-- MOD_P0 (R27). -/
  modP0 : Word
  /-- MOD_G0 (R27). -/
  modG0 : Word
  /-- MOD_P1 (R27). -/
  modP1 : Word
  /-- MOD_G1 (R27). -/
  modG1 : Word
  /-- MOD_P2 (R27). -/
  modP2 : Word
  /-- MOD_G2 (R27). -/
  modG2 : Word
  /-- DLEN (R29). -/
  dlen : Word
  /-- DCOUNT (R29). -/
  dcount : Word
  /-- BANK, WMEM and DMEM (R30, R32, R33) as bytes at their aperture offsets (R51), offsets rising; an offset that is
  not listed has not been written since reset (R39, logs 1 and 2). -/
  mem : List Host.Cell
  /-- Transactions that are held, oldest first (R60, R61). -/
  held : List Issue
  /-- Model's own: resets seen (log 2). -/
  epoch : Nat
  /-- Model's own: host inputs the engine still lets pass before it completes the pending command (log 3). -/
  wait : Nat
  /-- Model's own: commands accepted, the counter of `Config.latency` (log 3). -/
  draws : Nat
  /-- Model's own: what the outside world does next, in order (log 4). -/
  inputs : List Input
  /-- Model's own: the answers given, newest first (R52, log 4). -/
  answers : List Answer
deriving DecidableEq, Repr

/-- STATUS at reset: all fields 0 (R38). -/
def Status.reset : Status := { busy := false, done := false, err := false, errCode := 0 }

/-- The machine right after reset with the given parameters (R8, R28, R38): memory unspecified (R39), nothing pending or
held, and, of the model's own fields, no input, no answer and every counter 0 (logs 2, 3 and 4). -/
def State.resetWith (p : Config.Params) : State :=
  { params := p
    irqEn := false
    status := Status.reset
    cmd := 0
    sa := 0
    sb := 0
    sr := 0
    modP0 := p.moduli.p0
    modG0 := p.moduli.g0
    modP1 := p.moduli.p1
    modG1 := p.moduli.g1
    modP2 := p.moduli.p2
    modG2 := p.moduli.g2
    dlen := 0
    dcount := 0
    mem := []
    held := []
    epoch := 0
    wait := 0
    draws := 0
    inputs := []
    answers := [] }

/-- The machine right after reset (R38), with the parameters of R8. -/
def State.reset : State := State.resetWith Config.defaults

end Sys2Proof.Machine
end

