-- ==== Sys2Proof/Machine/Flags.lean ====
section
/-! DEFINITION. The only flags of the core, STATUS (spec/10_state.md R23, R35): its error codes (spec/60_exceptions.md
R160), its word, every change of it (R169, R172, R174), and the interrupt output computed from it (R37, R173). -/

namespace Sys2Proof.Machine

/-- The number of an error code (R160). -/
def ErrorCode.code : ErrorCode → BitVec 4
  | .illegalCmd => 1
  | .badModulus => 2
  | .sizeTooLarge => 3
  | .badSize => 4
  | .badDigits => 5
  | .invUndef => 6

/-- STATUS as the host reads it; reserved bits read 0 (R23). -/
def Status.toWord (st : Status) : Word :=
  BitVec.ofNat 32 (st.busy.toNat + st.done.toNat * 2 + st.err.toNat * 4 + st.errCode.toNat * 16)

/-- CTRL as the host reads it; reserved bits read 0 (R22). -/
def ctrlWord (irqEn : Bool) : Word := BitVec.ofNat 32 irqEn.toNat

/-- STATUS when a command is accepted (R169). -/
def Status.accepted : Status := { busy := true, done := false, err := false, errCode := 0 }

/-- STATUS when the pending command completes without error: ERR and ERRCODE stay (R172). -/
def Status.succeeded (st : Status) : Status := { st with busy := false, done := true }

/-- STATUS when the pending command completes with an error: DONE stays (R172). -/
def Status.failed (e : ErrorCode) (st : Status) : Status := { st with busy := false, err := true, errCode := e.code }

/-- A host write to STATUS: bit 1 clears DONE, bit 2 clears ERR and ERRCODE together, nothing else changes (R23, R174). -/
def Status.clear (v : Word) (st : Status) : Status :=
  { busy := st.busy
    done := st.done && !v.getLsbD 1
    err := st.err && !v.getLsbD 2
    errCode := if v.getLsbD 2 then 0 else st.errCode }

/-- The interrupt output (R37, R173). -/
def State.irq (s : State) : Bool := s.irqEn && (s.status.done || s.status.err)

end Sys2Proof.Machine
end

