-- ==== Sys2Proof/Machine/Ops.lean ====
section
/-! DEFINITION. The named operations over memory and registers: bytes and little-endian words of memory
(spec/20_memory.md R56, R57, R62), the registers (R58, R59; spec/10_state.md R20), accepting a command
(spec/60_exceptions.md R169), and how every command ends: its check phase, its error or its success (R166, R172). -/

namespace Sys2Proof.Machine

/-! ## Memory as a list of cells -/

/-- The canonical form of memory: offsets strictly rising. An offset that is not listed holds no value of its own, so
that no entry can equal it (log 2). -/
abbrev Memory.wf (m : List Host.Cell) : Prop := m.Pairwise (fun x y => x.1 < y.1)

/-- The byte written at an offset since reset, if any. -/
def Memory.lookup : List Host.Cell → Nat → Option Byte
  | [], _ => none
  | c :: m, a => if c.1 = a then some c.2 else Memory.lookup m a

/-- Write one byte, keeping the offsets rising. -/
def Memory.store (a : Nat) (v : Byte) : List Host.Cell → List Host.Cell
  | [] => [(a, v)]
  | c :: m =>
    if a < c.1 then (a, v) :: c :: m
    else if a = c.1 then (a, v) :: m
    else c :: Memory.store a v m

/-- Write a number as `k` bytes, the least significant at the lowest offset (R62). -/
def Memory.storeLE : (k a v : Nat) → List Host.Cell → List Host.Cell
  | 0, _, _, m => m
  | k + 1, a, v, m => Memory.storeLE k (a + 1) (v / 256) (Memory.store a (BitVec.ofNat 8 v) m)

/-- Write consecutive elements of `k` bytes each, the first at `a`. -/
def Memory.storeElems (k : Nat) : (a : Nat) → List Nat → List Host.Cell → List Host.Cell
  | _, [], m => m
  | a, v :: vs, m => Memory.storeElems k (a + k) vs (Memory.storeLE k a v m)

/-- One byte of a memory: what was written since reset, else the free value the spec leaves unspecified (R39, U1,
log 2). -/
def State.readByte (s : State) (a : Nat) : Byte := (Memory.lookup s.mem a).getD (Config.powerOnByte s.epoch a)

/-- The number in `k` bytes, the least significant at the lowest offset (R62). -/
def State.readLE (s : State) : (k a : Nat) → Nat
  | 0, _ => 0
  | k + 1, a => (s.readByte a).toNat + 256 * s.readLE k (a + 1)

/-- The 32-bit word of memory at an offset (R55, R56, R57). -/
def State.readWord (s : State) (a : Nat) : Word := BitVec.ofNat 32 (s.readLE 4 a)

/-- Replace the 32-bit word of memory at an offset (R55, R56). -/
def State.writeWord (s : State) (a : Nat) (v : Word) : State := { s with mem := Memory.storeLE 4 a v.toNat s.mem }

/-! ## Accepting and ending a command -/

/-- The registers a command can read (R25, R27). -/
def State.operandWords (s : State) : List Word :=
  [s.sa, s.sb, s.modP0, s.modG0, s.modP1, s.modG1, s.modP2, s.modG2]

/-- Acceptance of a command word (R169); the engine's latency for it is drawn anew (log 3). -/
def State.accept (s : State) (word : Word) : State :=
  { s with
    cmd := word
    status := Status.accepted
    wait := Config.latency s.draws s.epoch word s.operandWords s.mem
    draws := s.draws + 1 }

/-- The pending command completes with an error: only STATUS changes (R166, R172). The core's "taking an exception". -/
def State.raise (s : State) (e : ErrorCode) : State := { s with status := s.status.failed e }

/-- A host write to STATUS: the core's "return from an exception" (R174). -/
def State.clearStatus (s : State) (v : Word) : State := { s with status := s.status.clear v }

/-- The pending command completes without error (R172). -/
def State.succeed (s : State) : State := { s with status := s.status.succeeded }

/-- The code of the first condition that holds, in the order the conditions are listed (R167). -/
def firstError : List (Bool × ErrorCode) → Option ErrorCode
  | [] => none
  | c :: cs => if c.1 then some c.2 else firstError cs

/-- A whole command (R166): the check phase's conditions in order of priority, which write nothing; then either the
error (R172), or the write phase and success. -/
def runCommand (checks : List (Bool × ErrorCode)) (write : State → State) (s : State) :
    Host.Outcome State Fault Refusal :=
  match firstError checks with
  | some e => .next (s.raise e)
  | none => .next (write s).succeed

/-! ## Registers -/

/-- The registers of R20. -/
inductive Reg where
  | params | ctrl | status | cmd | sa | sb | sr | modP0 | modG0 | modP1 | modG1 | modP2 | modG2 | dlen | dcount
deriving DecidableEq, Repr

/-- The offset of a register (R20). -/
def Reg.offset : Reg → Nat
  | .params => 0x000 | .ctrl => 0x004 | .status => 0x008 | .cmd => 0x00C | .sa => 0x010 | .sb => 0x014 | .sr => 0x018
  | .modP0 => 0x020 | .modG0 => 0x024 | .modP1 => 0x028 | .modG1 => 0x02C | .modP2 => 0x030 | .modG2 => 0x034
  | .dlen => 0x040 | .dcount => 0x044

/-- The registers in the order of R20. -/
def Reg.all : List Reg :=
  [.params, .ctrl, .status, .cmd, .sa, .sb, .sr, .modP0, .modG0, .modP1, .modG1, .modP2, .modG2, .dlen, .dcount]

/-- The register at an offset; every other offset of the register block is unmapped (R20). -/
def Reg.at? (a : Nat) : Option Reg := Reg.all.find? (fun r => r.offset == a)

/-- PARAMS, which reports the parameters (R21). -/
def paramsWord (p : Config.Params) : Word :=
  BitVec.ofNat 32 (p.log2Nmax.val + p.lastBank.val * 2 ^ 8 + Config.maxDig * 2 ^ 12 + Config.nmod * 2 ^ 16)

/-- What a host reads from a register (R58). -/
def State.readReg (s : State) : Reg → Word
  | .params => paramsWord s.params
  | .ctrl => ctrlWord s.irqEn
  | .status => s.status.toWord
  | .cmd => s.cmd
  | .sa => s.sa
  | .sb => s.sb
  | .sr => s.sr
  | .modP0 => s.modP0
  | .modG0 => s.modG0
  | .modP1 => s.modP1
  | .modG1 => s.modG1
  | .modP2 => s.modP2
  | .modG2 => s.modG2
  | .dlen => s.dlen
  | .dcount => s.dcount

/-- What a host write does to a register: RW registers are replaced, STATUS is cleared by ones, CMD submits a command
(R58), read-only registers ignore it (R59), and of CTRL only bit 0 exists (R22). -/
def State.writeReg (s : State) (v : Word) : Reg → State
  | .params => s
  | .ctrl => { s with irqEn := v.getLsbD 0 }
  | .status => s.clearStatus v
  | .cmd => s.accept v
  | .sa => { s with sa := v }
  | .sb => { s with sb := v }
  | .sr => s
  | .modP0 => { s with modP0 := v }
  | .modG0 => { s with modG0 := v }
  | .modP1 => { s with modP1 := v }
  | .modG1 => { s with modG1 := v }
  | .modP2 => { s with modP2 := v }
  | .modG2 => { s with modG2 := v }
  | .dlen => s
  | .dcount => s

end Sys2Proof.Machine
end

