-- ==== Sys2Proof/Machine/Operands.lean ====
section
/-! DEFINITION. The operand forms of a command (spec/30_encoding.md R74 to R78): the modulus descriptor MSEL names, the
array length LOG2N gives, and the elements of banks, wide memory and digit memory with their offsets
(spec/20_memory.md R51). -/

namespace Sys2Proof.Machine

/-- P, the prime of the descriptor MSEL names (R76). MSEL = 3 names none: every command checks that before it uses P
(R79), so the last line is never used. -/
def State.prime (s : State) (k : ModSel) : Nat :=
  match k with
  | 0 => s.modP0.toNat
  | 1 => s.modP1.toNat
  | 2 => s.modP2.toNat
  | 3 => 0

/-- G, the root of the descriptor MSEL names (R76); as for `State.prime`, MSEL = 3 is never used. -/
def State.root (s : State) (k : ModSel) : Nat :=
  match k with
  | 0 => s.modG0.toNat
  | 1 => s.modG1.toNat
  | 2 => s.modG2.toNat
  | 3 => 0

/-- n = 2^LOG2N (R75). -/
def arrayLen (l : Log2N) : Nat := 2 ^ l.val

/-- LOG2N is past LOG2_NMAX: SIZE_TOO_LARGE (R75, R163). -/
def tooLarge (p : Config.Params) (l : Log2N) : Bool := p.log2Nmax.val < l.val

/-- n does not divide P - 1: BAD_SIZE (R164). -/
def notDividing (p : Nat) (l : Log2N) : Bool := (p - 1) % arrayLen l != 0

/-- DIG is not 1 to MAXDIG: BAD_DIGITS (R74, R170). -/
def badDigitCount (dig : DigitCount) : Bool := dig.val < 1 || Config.maxDig < dig.val

/-- P is below 2: BAD_MODULUS (R93, R162). -/
def badModulus (p : Nat) : Bool := p < 2

/-- Offset of BANK[b][i] (R51). On a core with fewer than 8 banks a command that names a bank it does not have works on
the elements at these offsets, which no transaction reaches (log 16). -/
def bankAddr (b : BankIx) (i : Nat) : Nat := Config.bankBase + b.val * Config.bankStride + 4 * i

/-- Offset of WMEM[i], word 0 (R51). -/
def wideAddr (i : Nat) : Nat := Config.wmemBase + 16 * i

/-- Offset of DMEM[k] (R51, R57). -/
def digitAddr (k : Nat) : Nat := Config.dmemBase + k

/-- BANK[b][i] (R30). -/
def State.bank (s : State) (b : BankIx) (i : Nat) : Word := BitVec.ofNat 32 (s.readLE 4 (bankAddr b i))

/-- WMEM[i] (R32). -/
def State.wide (s : State) (i : Nat) : Wide := BitVec.ofNat 128 (s.readLE 16 (wideAddr i))

/-- DMEM[k] (R33). -/
def State.digit (s : State) (k : Nat) : Byte := s.readByte (digitAddr k)

/-- BANK[b][0 .. n-1] as numbers (R30). -/
def State.bankPrefix (s : State) (b : BankIx) (n : Nat) : List Nat := (List.range n).map (fun i => (s.bank b i).toNat)

/-- WMEM[0 .. n-1] as numbers (R32). -/
def State.widePrefix (s : State) (n : Nat) : List Nat := (List.range n).map (fun i => (s.wide i).toNat)

/-- Write BANK[b][0 ..] (R30). -/
def State.setBank (s : State) (b : BankIx) (vs : List Nat) : State :=
  { s with mem := Memory.storeElems 4 (bankAddr b 0) vs s.mem }

/-- Write WMEM[0 ..] (R32). -/
def State.setWide (s : State) (vs : List Nat) : State :=
  { s with mem := Memory.storeElems 16 (wideAddr 0) vs s.mem }

/-- Write DMEM[0 ..] (R33). -/
def State.setDigits (s : State) (vs : List Nat) : State :=
  { s with mem := Memory.storeElems 1 (digitAddr 0) vs s.mem }

/-- Write SR (R26). -/
def State.setSr (s : State) (v : Nat) : State := { s with sr := BitVec.ofNat 32 v }

end Sys2Proof.Machine
end

