-- ==== Sys2Proof/Machine/Bus.lean ====
section
/-! DEFINITION. The aperture as the host sees it (spec/20_memory.md): the address map of R51, the transactions of R52 to
R59, and the hold of R60. -/

namespace Sys2Proof.Machine

/-- What an offset of the aperture reaches (R51). -/
inductive Target where
  | reg (r : Reg)
  /-- The bank element whose word stands at the offset (R55). -/
  | bank (b i : Nat)
  /-- Word j of WMEM[i] (R56). -/
  | wide (i j : Nat)
  /-- Digits 4q to 4q + 3 (R57). -/
  | digits (q : Nat)
deriving DecidableEq, Repr

/-- What a 32-bit access at an aligned offset reaches; none where nothing is mapped (R51, R54). A bank or element past
the last one is unmapped, for every value of the parameters (R51). -/
def mapped (p : Config.Params) (a : Nat) : Option Target :=
  if a < Config.regBlockBytes then (Reg.at? a).map .reg
  else if a < Config.bankBase then none
  else if a < Config.bankBase + Config.bankSlots * Config.bankStride then
    let b := (a - Config.bankBase) / Config.bankStride
    let i := (a - Config.bankBase) % Config.bankStride / 4
    if b < p.nbanks ∧ i < p.nmax then some (.bank b i) else none
  else if a < Config.wmemBase then none
  else if a < Config.wmemEnd then
    let i := (a - Config.wmemBase) / 16
    if i < p.nmax then some (.wide i ((a - Config.wmemBase) % 16 / 4)) else none
  else if a < Config.dmemBase then none
  else
    let q := (a - Config.dmemBase) / 4
    if q < p.dcap / 4 then some (.digits q) else none

/-- What an access of a width at an offset reaches; none is a BUSERR: a width other than 4 bytes, an offset that is not
a multiple of 4 (R53), an unmapped offset or one outside the aperture (R54). -/
def target (p : Config.Params) (width a : Nat) : Option Target :=
  if width = 4 ∧ a % 4 = 0 then mapped p a else none

/-- The offset of a memory word (R51). -/
def Target.offset : Target → Nat
  | .reg r => r.offset
  | .bank b i => Config.bankBase + b * Config.bankStride + 4 * i
  | .wide i j => Config.wmemBase + 16 * i + 4 * j
  | .digits q => Config.dmemBase + 4 * q

/-- The value a read of a target returns (R55 to R58). No read changes the core (R64). -/
def State.readTarget (s : State) : Target → Word
  | .reg r => s.readReg r
  | .bank b i => s.readWord (Target.offset (.bank b i))
  | .wide i j => s.readWord (Target.offset (.wide i j))
  | .digits q => s.readWord (Target.offset (.digits q))

/-- What a write of a target does to the core (R55, R56, R58); digit memory ignores it (R57). -/
def State.writeTarget (s : State) (v : Word) : Target → State
  | .reg r => s.writeReg v r
  | .bank b i => s.writeWord (Target.offset (.bank b i)) v
  | .wide i j => s.writeWord (Target.offset (.wide i j)) v
  | .digits _ => s

/-- The response and value a transaction is answered with: a BUSERR read returns 0, a write no value (R52). -/
def State.response (s : State) : Tx → Response × Option Word
  | .read width a =>
    match target s.params width a with
    | some t => (.okay, some (s.readTarget t))
    | none => (.busErr, some 0)
  | .write width a _ =>
    match target s.params width a with
    | some _ => (.okay, none)
    | none => (.busErr, none)

/-- What a transaction does to the core when it is performed; a BUSERR does nothing (R52, R53, R54). -/
def State.effect (s : State) : Tx → State
  | .read _ _ => s
  | .write width a v =>
    match target s.params width a with
    | some t => s.writeTarget v t
    | none => s

/-- A transaction is performed and answered (R52): its answer, then its effect. -/
def State.perform (s : State) (q : Issue) : State :=
  let r := s.response q.tx
  { s.effect q.tx with answers := ⟨q.host, q.tx, r.1, r.2⟩ :: (s.effect q.tx).answers }

/-- The targets whose reads are answered while a command runs (R60). -/
def Target.readableWhileBusy : Target → Bool
  | .reg r => r == .params || r == .ctrl || r == .status || r == .cmd
  | .bank _ _ => false
  | .wide _ _ => false
  | .digits _ => false

/-- The targets whose writes are answered while a command runs (R60). -/
def Target.writableWhileBusy : Target → Bool
  | .reg r => r == .ctrl || r == .status
  | .bank _ _ => false
  | .wide _ _ => false
  | .digits _ => false

/-- A transaction that is held while a command runs: every one but those R60 excepts, BUSERR ones among them. -/
def Tx.isHeld (p : Config.Params) : Tx → Bool
  | .read width a =>
    match target p width a with
    | some t => !t.readableWhileBusy
    | none => false
  | .write width a _ =>
    match target p width a with
    | some t => !t.writableWhileBusy
    | none => false

/-- A host with a held transaction waits for its answer and issues nothing else (R52, R61). -/
def State.isWaiting (s : State) (host : Nat) : Bool := s.held.any (fun q => q.host == host)

/-- A host program that has been answered BUSERR is at fault (R54, R176), also after a reset of the core, which is no reset
of the host: the spec says nothing of that, and it is the model's choice (log 6). -/
def State.hostAtFault (s : State) (host : Nat) : Bool :=
  s.answers.any (fun a => a.host == host && a.response == .busErr)

/-- Reset (R190, R191): every register takes its reset value, the descriptors those of the core's own RESET_MODULI
(R28), the pending command and the held transactions are gone without an answer, and every memory is unspecified anew.
The outside world's inputs, the answers already given and the counter of the draws are not the core's and stay: a host
that was answered BUSERR before the reset is still at fault (the model's choices, logs 6 and 8). -/
def State.assertReset (s : State) : State :=
  { State.resetWith s.params with epoch := s.epoch + 1, draws := s.draws, inputs := s.inputs, answers := s.answers }

end Sys2Proof.Machine
end

