-- ==== Sys2Proof/Machine/Carry.lean ====
section
/-! DEFINITION. CARRY (spec/43_carry.md R140 to R147): the walk, the flush and the significant digits. -/

namespace Sys2Proof.Machine

/-- The DIG digits of a chunk, least significant first (R142). -/
def chunkDigits (dig chunk : Nat) : List Nat := (List.range dig).map (fun d => chunk / 10 ^ d % 10)

/-- The flush of R143 for at most `fuel` chunks: digits of the carry left after the last coefficient. -/
def flushDigits (dig : Nat) : (fuel c : Nat) → List Nat
  | 0, _ => []
  | fuel + 1, c =>
    if c = 0 then [] else chunkDigits dig (c % 10 ^ dig) ++ flushDigits dig fuel (c / 10 ^ dig)

/-- The carry walk of R143 over the coefficients that are left, with carry c, and then the flush. The carry loses a
digit with each flushed chunk, so that one turn for each of its bits is enough. -/
def carryDigits (dig : Nat) : (src : List Nat) → (c : Nat) → List Nat
  | [], c => flushDigits dig (Nat.log2 c + 1) c
  | v :: vs, c => chunkDigits dig ((v + c) % 10 ^ dig) ++ carryDigits dig vs ((v + c) / 10 ^ dig)

/-- The search of R144 for the most significant nonzero digit, from index t down. -/
def topIndex (ds : List Nat) : (t : Nat) → Nat
  | 0 => 0
  | t + 1 => if ds.getD (t + 1) 0 = 0 then topIndex ds t else t + 1

/-- The significant digits of k >= 1 digits (R144). -/
def significant (ds : List Nat) : Nat := topIndex ds (ds.length - 1) + 1

/-- The coefficients CARRY walks: WMEM with W = 1, BANK[BA] with W = 0 (R78, R141). -/
def State.carrySource (s : State) (l : Log2N) (ba : BankIx) (w : Bool) : List Nat :=
  if w then s.widePrefix (arrayLen l) else s.bankPrefix ba (arrayLen l)

/-- Write the digits, DCOUNT and DLEN of a CARRY (R144, R145, R146). -/
def State.putDigits (s : State) (ds : List Nat) : State :=
  { s.setDigits ds with dcount := BitVec.ofNat 32 ds.length, dlen := BitVec.ofNat 32 (significant ds) }

/-- CARRY (R146). -/
def execCarry (l : Log2N) (ba : BankIx) (dig : DigitCount) (w : Bool) (s : State) :
    Host.Outcome State Fault Refusal :=
  runCommand
    [(!(Instr.wf (.carry l ba dig w)), .illegalCmd),
     (tooLarge s.params l, .sizeTooLarge),
     (badDigitCount dig, .badDigits)]
    (fun s => s.putDigits (carryDigits dig.val (s.carrySource l ba w) 0))
    s

end Sys2Proof.Machine
end

