-- ==== Sys2Proof/Machine/Kernel.lean ====
section
/-! DEFINITION. The pure functions of the modular arithmetic kernel on exact numbers (spec/40_modarith.md R90 to R92, R98). -/

namespace Sys2Proof.Machine

/-- Both operands reduced, one product, one reduction (R90). -/
def mulmod (a b p : Nat) : Nat := (a % p) * (b % p) % p

/-- The loop of R91 for at most `fuel` turns: result `r`, running square `b`, exponent `e`. -/
def powLoop (p : Nat) : (fuel r b e : Nat) → Nat
  | 0, r, _, _ => r
  | fuel + 1, r, b, e =>
    if e = 0 then r
    else powLoop p fuel (if e % 2 = 1 then mulmod r b p else r) (mulmod b b p) (e / 2)

/-- Iterative binary exponentiation (R91). The loop runs once for each bit of the exponent. -/
def powmod (a e p : Nat) : Nat := powLoop p (Nat.log2 e + 1) (1 % p) (a % p) e

/-- a^(p-2) mod p, for every p >= 2 (R92). -/
def invmod (a p : Nat) : Nat := powmod a (p - 2) p

end Sys2Proof.Machine
end

