-- ==== Sys2Proof/Machine/Crt.lean ====
section
/-! DEFINITION. CRT3 (spec/42_crt.md R130 to R133). -/

namespace Sys2Proof.Machine

/-- Garner's combination of one index with the two precomputed inverses (R131, R132). -/
def garner (p1 p2 p3 r1 r2 r3 : Nat) : Nat :=
  let inv12 := invmod (p1 % p2) p2
  let inv123 := invmod (p1 * p2 % p3) p3
  let x1 := r1 % p1
  let x2 := mulmod (r2 % p2 + p2 - x1 % p2) inv12 p2
  let y := x1 + x2 * p1
  let x3 := mulmod (r3 % p3 + p3 - y % p3) inv123 p3
  y + x3 * (p1 * p2)

/-- The wide words of R133, index by index. -/
def garnerAll (p1 p2 p3 : Nat) : List Nat → List Nat → List Nat → List Nat
  | r1 :: a, r2 :: b, r3 :: c => garner p1 p2 p3 r1 r2 r3 :: garnerAll p1 p2 p3 a b c
  | _, _, _ => []

/-- CRT3 (R133): the moduli are the three descriptors in index order (R130). -/
def execCrt3 (l : Log2N) (ba bb bc : BankIx) (s : State) : Host.Outcome State Fault Refusal :=
  runCommand
    [(!(Instr.wf (.crt3 l ba bb bc)), .illegalCmd),
     (badModulus (s.prime 0) || badModulus (s.prime 1) || badModulus (s.prime 2), .badModulus),
     (tooLarge s.params l, .sizeTooLarge),
     (s.prime 0 % s.prime 1 = 0, .invUndef),
     (s.prime 0 * s.prime 1 % s.prime 2 = 0, .invUndef)]
    (fun s => s.setWide (garnerAll (s.prime 0) (s.prime 1) (s.prime 2)
      (s.bankPrefix ba (arrayLen l)) (s.bankPrefix bb (arrayLen l)) (s.bankPrefix bc (arrayLen l))))
    s

end Sys2Proof.Machine
end

