-- ==== Sys2Proof/Machine/ModArith.lean ====
section
/-! DEFINITION. MULMOD, POWMOD, INVMOD and PMUL (spec/40_modarith.md R93 to R97). -/

namespace Sys2Proof.Machine

/-- MULMOD (R94). -/
def execMulmod (k : ModSel) (s : State) : Host.Outcome State Fault Refusal :=
  runCommand
    [(!(Instr.wf (.mulmod k)), .illegalCmd),
     (badModulus (s.prime k), .badModulus)]
    (fun s => s.setSr (mulmod s.sa.toNat s.sb.toNat (s.prime k)))
    s

/-- POWMOD (R95). -/
def execPowmod (k : ModSel) (s : State) : Host.Outcome State Fault Refusal :=
  runCommand
    [(!(Instr.wf (.powmod k)), .illegalCmd),
     (badModulus (s.prime k), .badModulus)]
    (fun s => s.setSr (powmod s.sa.toNat s.sb.toNat (s.prime k)))
    s

/-- INVMOD (R96). -/
def execInvmod (k : ModSel) (s : State) : Host.Outcome State Fault Refusal :=
  runCommand
    [(!(Instr.wf (.invmod k)), .illegalCmd),
     (badModulus (s.prime k), .badModulus),
     (s.sa.toNat % s.prime k = 0, .invUndef)]
    (fun s => s.setSr (invmod s.sa.toNat (s.prime k)))
    s

/-- The pointwise products of two arrays (R97). -/
def pointwise (p : Nat) (a b : List Nat) : List Nat := List.zipWith (fun x y => mulmod x y p) a b

/-- PMUL (R97). Element i depends on index i of the two banks only, so that reading both before writing is the loop. -/
def execPmul (k : ModSel) (l : Log2N) (ba bb : BankIx) (s : State) : Host.Outcome State Fault Refusal :=
  runCommand
    [(!(Instr.wf (.pmul k l ba bb)), .illegalCmd),
     (badModulus (s.prime k), .badModulus),
     (tooLarge s.params l, .sizeTooLarge)]
    (fun s => s.setBank ba (pointwise (s.prime k) (s.bankPrefix ba (arrayLen l)) (s.bankPrefix bb (arrayLen l))))
    s

end Sys2Proof.Machine
end

