-- ==== Sys2Proof/Machine/Transform.lean ====
section
/-! DEFINITION. NTTF and NTTI (spec/41_transform.md R110 to R116) on arrays of exact numbers. -/

namespace Sys2Proof.Machine

/-- The k-bit reversal of i: its lowest bit becomes the highest (R110). -/
def bitrev : (i k : Nat) → Nat
  | _, 0 => 0
  | i, k + 1 => i % 2 * 2 ^ k + bitrev (i / 2) k

/-- Element i of an array; every use is at an index below its length. -/
def elem (a : List Nat) (i : Nat) : Nat := a.getD i 0

/-- Swap a[i] and a[j] (R111). -/
def swapElems (a : List Nat) (i j : Nat) : List Nat := (a.set i (elem a j)).set j (elem a i)

/-- The swaps of R111 for the indices i, i+1, …, i+k-1. -/
def bitrevSwaps (l : Nat) : (k i : Nat) → List Nat → List Nat
  | 0, _, a => a
  | k + 1, i, a =>
    bitrevSwaps l k (i + 1) (if i < bitrev i l then swapElems a i (bitrev i l) else a)

/-- The bit-reversal permutation of an array of 2^l elements: swaps for i in 1..n-1 (R111). -/
def bitrevPermute (l : Nat) (a : List Nat) : List Nat := bitrevSwaps l (2 ^ l - 1) 1 a

/-- One butterfly at offsets x and y with twiddle w (R113). -/
def butterfly (p w x y : Nat) (a : List Nat) : List Nat :=
  let u := elem a x
  let t := mulmod (elem a y) w p
  (a.set x ((u + t) % p)).set y ((u + p - t) % p)

/-- The inner loop of R113 in the block that starts at i: k more butterflies from index j on, with twiddle w and stage
root r. -/
def blockLoop (p half r i : Nat) : (k j w : Nat) → List Nat → List Nat
  | 0, _, _, a => a
  | k + 1, j, w, a =>
    blockLoop p half r i k (j + 1) (mulmod w r p) (butterfly p w (i + j) (i + j + half) a)

/-- The middle loop of R113: k more blocks of 2·half elements, the next one starting at i. -/
def stageLoop (p half r : Nat) : (k i : Nat) → List Nat → List Nat
  | 0, _, a => a
  | k + 1, i, a => stageLoop p half r k (i + 2 * half) (blockLoop p half r i half 0 1 a)

/-- The stages of R113 from one with half-length `half` on, one for each root, over an array of n elements. -/
def stages (p n : Nat) : (half : Nat) → (roots : List Nat) → List Nat → List Nat
  | _, [], a => a
  | half, r :: rs, a => stages p n (2 * half) rs (stageLoop p half r (n / (2 * half)) 0 a)

/-- The forward stage roots r[1..L] (R112). -/
def stageRoots (p g l : Nat) : List Nat := (List.range l).map (fun s => powmod g ((p - 1) / 2 ^ (s + 1)) p)

/-- The inverse stage roots (R112). -/
def inverseRoots (p g l : Nat) : List Nat := (stageRoots p g l).map (fun f => invmod f p)

/-- Bit reversal, then the butterfly stages (R111, R113). -/
def transform (p l : Nat) (roots : List Nat) (a : List Nat) : List Nat :=
  stages p (2 ^ l) 1 roots (bitrevPermute l a)

/-- The array NTTF leaves (R115). -/
def forwardNtt (p g l : Nat) (a : List Nat) : List Nat := transform p l (stageRoots p g l) a

/-- The array NTTI leaves: the inverse transform, every element scaled by n^-1 (R114, R116). -/
def inverseNtt (p g l : Nat) (a : List Nat) : List Nat :=
  (transform p l (inverseRoots p g l) a).map (fun x => mulmod x (invmod (2 ^ l % p) p) p)

/-- NTTF (R115). -/
def execNttf (k : ModSel) (l : Log2N) (ba : BankIx) (s : State) : Host.Outcome State Fault Refusal :=
  runCommand
    [(!(Instr.wf (.nttf k l ba)), .illegalCmd),
     (badModulus (s.prime k), .badModulus),
     (tooLarge s.params l, .sizeTooLarge),
     (notDividing (s.prime k) l, .badSize)]
    (fun s => s.setBank ba (forwardNtt (s.prime k) (s.root k) l.val (s.bankPrefix ba (arrayLen l))))
    s

/-- NTTI (R116). -/
def execNtti (k : ModSel) (l : Log2N) (ba : BankIx) (s : State) : Host.Outcome State Fault Refusal :=
  runCommand
    [(!(Instr.wf (.ntti k l ba)), .illegalCmd),
     (badModulus (s.prime k), .badModulus),
     (tooLarge s.params l, .sizeTooLarge),
     (notDividing (s.prime k) l, .badSize),
     ((stageRoots (s.prime k) (s.root k) l.val).any (fun f => f == 0), .invUndef)]
    (fun s => s.setBank ba (inverseNtt (s.prime k) (s.root k) l.val (s.bankPrefix ba (arrayLen l))))
    s

end Sys2Proof.Machine
end

