-- ==== Sys2Proof/Machine/Dispatch.lean ====
section
/-! DEFINITION. What each command does when the engine completes it (spec/60_exceptions.md R168). -/

namespace Sys2Proof.Machine

def exec (i : Instr) (s : State) : Host.Outcome State Fault Refusal :=
  match i with
  | .mulmod k => Sys2Proof.Machine.execMulmod k s
  | .powmod k => Sys2Proof.Machine.execPowmod k s
  | .invmod k => Sys2Proof.Machine.execInvmod k s
  | .nttf k l ba => Sys2Proof.Machine.execNttf k l ba s
  | .ntti k l ba => Sys2Proof.Machine.execNtti k l ba s
  | .pmul k l ba bb => Sys2Proof.Machine.execPmul k l ba bb s
  | .crt3 l ba bb bc => Sys2Proof.Machine.execCrt3 l ba bb bc s
  | .carry l ba dig w => Sys2Proof.Machine.execCarry l ba dig w s

end Sys2Proof.Machine
end

