-- ==== Sys2Proof/Machine/Engine.lean ====
section
/-! DEFINITION. The engine's one step (spec/60_exceptions.md R168), and which agent moves next (logs 3 to 6). -/

namespace Sys2Proof.Machine

/-- Completion of the pending command, whose word is CMD (R36, R168): a well-formed word is executed, every other word
ends with ILLEGAL_CMD (R161). -/
def complete (s : State) : Host.Outcome State Fault Refusal :=
  match decode s.cmd with
  | .ok i => exec i s
  | .error _ => .next (s.raise .illegalCmd)

/-- The next input while a command runs. A reset ends the command (R191). A transaction R60 excepts is answered at once,
any other is held; either uses up one turn of the engine's latency (log 3). A host that is waiting for an answer, or
whose program is at fault, issues nothing: then the engine completes the command first (logs 5 and 6). -/
def takeWhileBusy (s : State) (input : Input) (rest : List Input) (wait : Nat) : Host.Outcome State Fault Refusal :=
  match input with
  | .reset => .next { s with inputs := rest }.assertReset
  | .issue q =>
    if s.isWaiting q.host || s.hostAtFault q.host then complete s
    else if q.tx.isHeld s.params then .next { s with inputs := rest, wait := wait, held := s.held ++ [q] }
    else .next ({ s with inputs := rest, wait := wait }.perform q)

/-- A step while a command is pending: an input if there is one and the engine's latency lets it pass, else the
completion (R168, R200, log 3). -/
def stepBusy (s : State) : Host.Outcome State Fault Refusal :=
  match s.inputs with
  | [] => complete s
  | input :: rest =>
    match s.wait with
    | 0 => complete s
    | wait + 1 => takeWhileBusy s input rest wait

/-- The next input while no command is pending and nothing is held. A host whose program is at fault does not go on: the
machine faults (R176, log 6). -/
def takeWhileIdle (s : State) (input : Input) (rest : List Input) : Host.Outcome State Fault Refusal :=
  match input with
  | .reset => .next { s with inputs := rest }.assertReset
  | .issue q =>
    if s.hostAtFault q.host then .fault (.hostBusError q.host)
    else .next ({ s with inputs := rest }.perform q)

/-- A step while no command is pending: a held transaction is performed before anything else (R60, R168), then inputs
are taken in order; with none of either, nothing happens (R168, log 4). -/
def stepIdle (s : State) : Host.Outcome State Fault Refusal :=
  match s.held with
  | q :: held => .next ({ s with held := held }.perform q)
  | [] =>
    match s.inputs with
    | [] => .next s
    | input :: rest => takeWhileIdle s input rest

/-- One step of the machine. -/
def advance (s : State) : Host.Outcome State Fault Refusal :=
  if s.status.busy then stepBusy s else stepIdle s

/-- The state in which a word has just been accepted (R169) and the engine's latency is used up, so that the next step
completes exactly that command: what a host write of the word to CMD leaves, with no draw made (log 4). -/
def State.submitted (s : State) (word : Word) : State :=
  { s with cmd := word, status := Status.accepted, wait := 0 }

end Sys2Proof.Machine
end

