-- ==== Sys2Proof/Machine/Step.lean ====
section
/-! DEFINITION. The machine's step, and the placing of a command word as the pending command. -/

namespace Sys2Proof.Machine

/-- One step: the engine completes the pending command, or the outside world's next input is taken. -/
def step (s : State) : Host.Outcome State Fault Refusal := advance s

/-- `s` with the table's word accepted as the pending command (R169), so that the next step completes it. -/
def State.withFetchWord (s : State) (nbits w : Nat) : State := s.submitted (tableWord nbits w)

end Sys2Proof.Machine
end

