-- ==== Sys2Proof/Machine/HostOps.lean ====
section
/-! DEFINITION. What a host program is written in: the assembler of spec/30_encoding.md R81 and the pseudo-operations of
R82, as command words and transactions. No step uses this file; it only makes inputs. -/

namespace Sys2Proof.Machine

/-- A line of assembler with its operands as written (R81). -/
inductive AsmLine where
  | mulmod (m : Nat)
  | powmod (m : Nat)
  | invmod (m : Nat)
  | nttf (a m l : Nat)
  | ntti (a m l : Nat)
  | pmul (a b m l : Nat)
  | crt3 (a b c l : Nat)
  | carryBank (a dig l : Nat)
  | carryWide (dig l : Nat)
deriving DecidableEq, Repr

/-- Every operand fits its field: k <= 3, bank <= 7, L <= 31, D <= 15 (R81). -/
def AsmLine.fits : AsmLine → Bool
  | .mulmod m => m ≤ 3
  | .powmod m => m ≤ 3
  | .invmod m => m ≤ 3
  | .nttf a m l => a ≤ 7 && m ≤ 3 && l ≤ 31
  | .ntti a m l => a ≤ 7 && m ≤ 3 && l ≤ 31
  | .pmul a b m l => a ≤ 7 && b ≤ 7 && m ≤ 3 && l ≤ 31
  | .crt3 a b c l => a ≤ 7 && b ≤ 7 && c ≤ 7 && l ≤ 31
  | .carryBank a d l => a ≤ 7 && d ≤ 15 && l ≤ 31
  | .carryWide d l => d ≤ 15 && l ≤ 31

/-- The command a line names, its operands taken to their fields (R81). -/
def AsmLine.instr : AsmLine → Instr
  | .mulmod m => .mulmod (Fin.ofNat 4 m)
  | .powmod m => .powmod (Fin.ofNat 4 m)
  | .invmod m => .invmod (Fin.ofNat 4 m)
  | .nttf a m l => .nttf (Fin.ofNat 4 m) (Fin.ofNat 32 l) (Fin.ofNat 8 a)
  | .ntti a m l => .ntti (Fin.ofNat 4 m) (Fin.ofNat 32 l) (Fin.ofNat 8 a)
  | .pmul a b m l => .pmul (Fin.ofNat 4 m) (Fin.ofNat 32 l) (Fin.ofNat 8 a) (Fin.ofNat 8 b)
  | .crt3 a b c l => .crt3 (Fin.ofNat 32 l) (Fin.ofNat 8 a) (Fin.ofNat 8 b) (Fin.ofNat 8 c)
  | .carryBank a d l => .carry (Fin.ofNat 32 l) (Fin.ofNat 8 a) (Fin.ofNat 16 d) false
  | .carryWide d l => .carry (Fin.ofNat 32 l) 0 (Fin.ofNat 16 d) true

/-- The word a line assembles to; none where an operand does not fit its field (R81). -/
def AsmLine.assemble (line : AsmLine) : Option Word := if line.fits then some (encode line.instr) else none

/-- The array lengths and digit counts an assembler should accept: L <= 19, D in 1..9 (R81). -/
def Instr.operandsInRange : Instr → Bool
  | .mulmod _ => true
  | .powmod _ => true
  | .invmod _ => true
  | .nttf _ l _ => l.val ≤ Config.defaults.log2Nmax.val
  | .ntti _ l _ => l.val ≤ Config.defaults.log2Nmax.val
  | .pmul _ l _ _ => l.val ≤ Config.defaults.log2Nmax.val
  | .crt3 l _ _ _ => l.val ≤ Config.defaults.log2Nmax.val
  | .carry l _ d _ => l.val ≤ Config.defaults.log2Nmax.val && (1 ≤ d.val && d.val ≤ Config.maxDig)

/-- The lines an assembler should accept: what R81 says it should refuse encodes, but fails at run time. -/
def AsmLine.advisable (line : AsmLine) : Bool :=
  line.fits && line.instr.wf && Instr.operandsInRange line.instr

/-- A line as text (R81). -/
def AsmLine.text : AsmLine → String
  | .mulmod m => "MULMOD m" ++ toString m
  | .powmod m => "POWMOD m" ++ toString m
  | .invmod m => "INVMOD m" ++ toString m
  | .nttf a m l => "NTTF b" ++ toString a ++ ", m" ++ toString m ++ ", L=" ++ toString l
  | .ntti a m l => "NTTI b" ++ toString a ++ ", m" ++ toString m ++ ", L=" ++ toString l
  | .pmul a b m l =>
    "PMUL b" ++ toString a ++ ", b" ++ toString b ++ ", m" ++ toString m ++ ", L=" ++ toString l
  | .crt3 a b c l =>
    "CRT3 b" ++ toString a ++ ", b" ++ toString b ++ ", b" ++ toString c ++ ", L=" ++ toString l
  | .carryBank a d l => "CARRY b" ++ toString a ++ ", dig=" ++ toString d ++ ", L=" ++ toString l
  | .carryWide d l => "CARRY w, dig=" ++ toString d ++ ", L=" ++ toString l

/-- The host pseudo-operations of R82. A host repeats the poll of WAIT until it reads BUSY = 0; how often is the host's
to say here. -/
inductive HostOp where
  | wr (addr : Nat) (v : Word)
  | rd (addr : Nat)
  | cmd (word : Word)
  | wait (polls : Nat)
  | check (polls : Nat)
  | loadBank (b : BankIx) (vs : List Word)
  | setMod (k : Nat) (p g : Word)
deriving DecidableEq, Repr

/-- The transactions a pseudo-operation expands to; of CHECK, those of a host that reads DONE = 1 and goes on (R82). -/
def HostOp.txs : HostOp → List Tx
  | .wr a v => [.write 4 a v]
  | .rd a => [.read 4 a]
  | .cmd word => [.write 4 Reg.cmd.offset word]
  | .wait polls => List.replicate polls (.read 4 Reg.status.offset)
  | .check polls =>
    List.replicate polls (.read 4 Reg.status.offset) ++ [.read 4 Reg.status.offset, .write 4 Reg.status.offset 6]
  | .loadBank b vs => vs.mapIdx (fun i v => .write 4 (bankAddr b i) v)
  | .setMod k p g => [.write 4 (0x020 + 8 * k) p, .write 4 (0x024 + 8 * k) g]

end Sys2Proof.Machine
end

