-- ==== Sys2Proof/Safety.lean ====
section
/-! DEFINITION. What claims are stated in: the machine's invariant, and the runs that are free of host faults. -/

namespace Sys2Proof.Machine

/-- The offsets of banks and wide memory, which adjoin (R51). -/
def inWordMemory (a : Nat) : Prop := Config.bankBase ≤ a ∧ a < Config.wmemEnd

/-- The offsets of digit memory (R51). -/
def inDigitMemory (p : Config.Params) (a : Nat) : Prop := Config.dmemBase ≤ a ∧ a < Config.dmemBase + p.dcap

/-- The facts about a state that every step keeps. -/
structure Inv (s : State) : Prop where
  /-- Memory is in its canonical form. -/
  memCanonical : Memory.wf s.mem
  /-- Only offsets of a memory are written (R51, R151). -/
  memMapped : ∀ c ∈ s.mem, inWordMemory c.1 ∨ inDigitMemory s.params c.1
  /-- Every digit that was written is 0 to 9 (R33). -/
  digitsDecimal : ∀ c ∈ s.mem, inDigitMemory s.params c.1 → c.2.toNat ≤ 9
  /-- ERRCODE is not 0 exactly when ERR = 1 (R23). -/
  errCodeIffErr : s.status.errCode ≠ 0 ↔ s.status.err = true
  /-- Codes 7 to 15 are never produced (R160). -/
  errCodeNamed : s.status.errCode.toNat ≤ 6
  /-- DONE and ERR are never both 1 (R23). -/
  notDoneAndErr : ¬(s.status.done = true ∧ s.status.err = true)
  /-- While BUSY = 1, DONE = 0 and ERR = 0 (R23). -/
  busyClean : s.status.busy = true → s.status.done = false ∧ s.status.err = false
  /-- No more significant digits than digits, and no more of these than DMEM holds (R29, R151). -/
  digitCounts : s.dlen.toNat ≤ s.dcount.toNat ∧ s.dcount.toNat ≤ s.params.dcap
  /-- DLEN = 0 means that no CARRY has completed since reset (R29, R144). -/
  digitCountsTogether : s.dlen = 0 ↔ s.dcount = 0
  /-- At most one held transaction a host (R61). -/
  oneHeldPerHost : (s.held.map Issue.host).Nodup
  /-- Only transactions that R60 holds are held. -/
  heldAreHeld : ∀ q ∈ s.held, q.tx.isHeld s.params = true

/-- No host program is at fault: no transaction was answered BUSERR (R176). -/
def HostFaultFree (s : State) : Prop := ∀ a ∈ s.answers, a.response ≠ .busErr

end Sys2Proof.Machine
end

