-- ==== Sys2Proof/Certificates/Slice0/Obligations.lean ====
section
/-! DEFINITION. The statements for the provers, each a rule of spec/ or what follows from several. The helpers under
Sys2Proof.Spec say in the spec's own terms what the statements need, apart from the model's decoder and checks. -/

namespace Sys2Proof.Spec

open Sys2Proof.Machine

/-- v[hi:lo] (R10). -/
def bits (w : Word) (hi lo : Nat) : Nat := (w.extractLsb' lo (hi + 1 - lo)).toNat

/-- The illegal encodings, as R79 and the field-use table of R73 list them. -/
def IllegalWord (w : Word) : Prop :=
  bits w 31 28 = 0x0 ∨ 0x9 ≤ bits w 31 28 ∨
  bits w 6 0 ≠ 0 ∨
  ((bits w 31 28 = 0x1 ∨ bits w 31 28 = 0x2 ∨ bits w 31 28 = 0x3) ∧ bits w 25 7 ≠ 0) ∨
  ((bits w 31 28 = 0x4 ∨ bits w 31 28 = 0x5) ∧ bits w 17 7 ≠ 0) ∨
  (bits w 31 28 = 0x6 ∧ bits w 14 7 ≠ 0) ∨
  (bits w 31 28 = 0x7 ∧ (bits w 27 26 ≠ 0 ∨ bits w 11 7 ≠ 0)) ∨
  (bits w 31 28 = 0x8 ∧ (bits w 27 26 ≠ 0 ∨ bits w 17 12 ≠ 0)) ∨
  ((1 ≤ bits w 31 28 ∧ bits w 31 28 ≤ 6) ∧ bits w 27 26 = 3) ∨
  (bits w 31 28 = 0x8 ∧ bits w 7 7 = 1 ∧ bits w 20 18 ≠ 0)

/-- A word matches a row of the opcode table and passes the conditions of R76 and R78 (R73). -/
def MatchesRow (o : Opcode) (w : Word) : Prop :=
  w &&& o.mask = o.fixedBits ∧
  (o ≠ .crt3 ∧ o ≠ .carry → bits w 27 26 ≠ 3) ∧
  (o = .carry → bits w 7 7 = 1 → bits w 20 18 = 0)

/-- MSEL of a command that uses it (R73). -/
def msel? : Instr → Option ModSel
  | .mulmod k => some k
  | .powmod k => some k
  | .invmod k => some k
  | .nttf k _ _ => some k
  | .ntti k _ _ => some k
  | .pmul k _ _ _ => some k
  | .crt3 _ _ _ _ => none
  | .carry _ _ _ _ => none

/-- LOG2N of an array command (R75). -/
def log2n? : Instr → Option Log2N
  | .mulmod _ => none
  | .powmod _ => none
  | .invmod _ => none
  | .nttf _ l _ => some l
  | .ntti _ l _ => some l
  | .pmul _ l _ _ => some l
  | .crt3 l _ _ _ => some l
  | .carry l _ _ _ => some l

/-- When each error condition holds of a command in a state (R161 to R164, R170, R171). -/
def ErrorHolds (i : Instr) (s : State) : ErrorCode → Prop
  | .illegalCmd => msel? i = some 3 ∨ ∃ l a d, i = .carry l a d true ∧ a ≠ 0
  | .badModulus =>
    (∃ k, msel? i = some k ∧ s.prime k < 2) ∨
    ((∃ l a b c, i = .crt3 l a b c) ∧ (s.modP0.toNat < 2 ∨ s.modP1.toNat < 2 ∨ s.modP2.toNat < 2))
  | .sizeTooLarge => ∃ l, log2n? i = some l ∧ s.params.log2Nmax.val < l.val
  | .badSize => ∃ k l a, (i = .nttf k l a ∨ i = .ntti k l a) ∧ ¬(2 ^ l.val ∣ s.prime k - 1)
  | .badDigits => ∃ l a d w, i = .carry l a d w ∧ (d.val = 0 ∨ 10 ≤ d.val)
  | .invUndef =>
    (∃ k, i = .invmod k ∧ s.sa.toNat % s.prime k = 0) ∨
    (∃ k l a, i = .ntti k l a ∧
      ∃ j, 1 ≤ j ∧ j ≤ l.val ∧ s.root k ^ ((s.prime k - 1) / 2 ^ j) % s.prime k = 0) ∨
    ((∃ l a b c, i = .crt3 l a b c) ∧
      (s.modP0.toNat % s.modP1.toNat = 0 ∨ s.modP0.toNat * s.modP1.toNat % s.modP2.toNat = 0))

/-- The place of an error in the order of R167. -/
def rank : ErrorCode → Nat
  | .illegalCmd => 0
  | .badModulus => 1
  | .sizeTooLarge => 2
  | .badSize => 3
  | .badDigits => 4
  | .invUndef => 5

/-- The state a command leaves that succeeds and writes memory only. -/
def OnlyMemory (s t : State) : Prop := t = { s with status := s.status.succeeded, mem := t.mem }

/-- Conditions (b) and (c) of R117 for an array of n elements: P is prime and ω has order exactly n. -/
def GoodRoot (p g n : Nat) : Prop := p.Prime ∧ orderOf ((g : ZMod p) ^ ((p - 1) / n)) = n

/-- Coefficient i of a CARRY (R141). -/
def coeff (s : State) (ba : BankIx) (w : Bool) (i : Nat) : Nat :=
  if w then (s.wide i).toNat else (s.bank ba i).toNat

/-- The number a CARRY prints: the sum of the coefficients at the powers of the base (R72, R140). -/
def carryValue (s : State) (ba : BankIx) (w : Bool) (dig n : Nat) : Nat :=
  (Finset.range n).sum (fun i => coeff s ba w i * 10 ^ (dig * i))

/-- The core has the bank: all 8 with the parameters of R8 (R30, R51). -/
def HasBank (s : State) (b : BankIx) : Prop := b.val < s.params.nbanks

/-- The array length is one the core takes: LOG2N at most 19 with the parameters of R8 (R75). -/
def FitsBank (s : State) (l : Log2N) : Prop := l.val ≤ s.params.log2Nmax.val

/-- A CARRY of a source the core has, with no error condition (R146). -/
def GoodCarry (s : State) (l : Log2N) (ba : BankIx) (dig : DigitCount) (w : Bool) : Prop :=
  (w = true → ba = 0) ∧ (w = false → HasBank s ba) ∧ FitsBank s l ∧ 1 ≤ dig.val ∧ dig.val ≤ 9

/-- One stage of R113 on an array as a function: the elements m and m + half of each block of 2·half become u + t and
u - t mod p, where t is the second times the power of the stage root that the place in the block gives. -/
def stage (p half r : Nat) (x : Nat → Nat) (m : Nat) : Nat :=
  if m % (2 * half) < half then (x m + x (m + half) * r ^ (m % half) % p) % p
  else (x (m - half) + p - x m * r ^ (m % half) % p) % p

/-- The array after the first s stages, the one of block length 2^k with root r k (R112, R113). -/
def network (p : Nat) (r : Nat → Nat) (x : Nat → Nat) : Nat → Nat → Nat
  | 0 => x
  | s + 1 => stage p (2 ^ s) (r (s + 1)) (network p r x s)

/-- The forward stage root G^((P-1)/2^s) mod P (R112). -/
def forwardRoot (p g s : Nat) : Nat := g ^ ((p - 1) / 2 ^ s) % p

/-- The inverse stage root, the power P - 2 of the forward one (R92, R112). -/
def inverseRoot (p g s : Nat) : Nat := forwardRoot p g s ^ (p - 2) % p

/-- The offsets of the registers (R20). -/
def regOffsets : List Nat :=
  [0x000, 0x004, 0x008, 0x00C, 0x010, 0x014, 0x018, 0x020, 0x024, 0x028, 0x02C, 0x030, 0x034, 0x040, 0x044]

/-- An aligned offset of a register, a bank, wide memory or digit memory, by the numbers of R20 and R51 for the
parameters of R8. -/
def Reachable (a : Nat) : Prop :=
  a % 4 = 0 ∧ (a ∈ regOffsets ∨ (0x1000000 ≤ a ∧ a ≤ 0x27FFFFF) ∨ (0x3000000 ≤ a ∧ a ≤ 0x348002F))

/-- The same for any parameters: the regions keep their bases and strides (R51). -/
def ReachableIn (p : Config.Params) (a : Nat) : Prop :=
  a % 4 = 0 ∧
  (a ∈ regOffsets ∨
   (∃ b i, b < p.nbanks ∧ i < p.nmax ∧ a = 0x1000000 + b * 0x200000 + 4 * i) ∨
   (∃ i j, i < p.nmax ∧ j < 4 ∧ a = 0x2000000 + 16 * i + 4 * j) ∨
   (∃ q, q < p.dcap / 4 ∧ a = 0x3000000 + 4 * q))

/-- The transactions that are answered while a command runs, by the offsets of R20 (R60), BUSERR ones apart. -/
def AnsweredWhileBusy : Tx → Prop
  | .read w a => w = 4 ∧ (a = 0x000 ∨ a = 0x004 ∨ a = 0x008 ∨ a = 0x00C)
  | .write w a _ => w = 4 ∧ (a = 0x004 ∨ a = 0x008)

/-- Two states of one core with the same registers a command can read or write, and the same STATUS. -/
def SameRegisters (s v : State) : Prop :=
  v.params = s.params ∧ v.status = s.status ∧ v.sa = s.sa ∧ v.sb = s.sb ∧ v.sr = s.sr ∧ v.modP0 = s.modP0 ∧ v.modG0 = s.modG0 ∧
  v.modP1 = s.modP1 ∧ v.modG1 = s.modG1 ∧ v.modP2 = s.modP2 ∧ v.modG2 = s.modG2 ∧ v.dlen = s.dlen ∧
  v.dcount = s.dcount

end Sys2Proof.Spec

open Sys2Proof Sys2Proof.Machine Sys2Proof.Spec

/-! ## Encoding -/

/-- Every well-formed command is what its own word decodes to (R71 to R73, R83). -/
def Obligations.WellFormedCommandRoundTrips : Prop :=
  ∀ i : Instr, i.wf = true → decode (encode i) = .ok i

/-- Every word that decodes is the encoding of what it decodes to, which is well-formed: no bit is ignored (R73, R79). -/
def Obligations.DecodedWordIsItsEncoding : Prop :=
  ∀ (w : Word) (i : Instr), decode w = .ok i → encode i = w ∧ i.wf = true

/-- R73. The field-use table and the mask table agree, a word decodes to a command of a row exactly when it matches the
row and passes the conditions on MSEL and W, and every other word ends as ILLEGAL_CMD. -/
def Obligations.WordIsWellFormedIffItMatchesARow : Prop :=
  (∀ (o : Opcode) (w : Word),
    w &&& o.mask = o.fixedBits ↔ (bits w 31 28 = o.code ∧ ∀ f ∈ o.mustBeZero, f.get w = 0)) ∧
  (∀ (o : Opcode) (w : Word), MatchesRow o w ↔ ∃ i, decode w = .ok i ∧ i.opcode = o) ∧
  (∀ s : State, (¬∃ o, MatchesRow o s.cmd) → complete s = .next (s.raise .illegalCmd))

/-- The words R79 lists, and no others, are refused by the decoder; as the pending command such a word changes nothing
but STATUS, whatever the registers hold (R79, R161, R166, R172). That DONE is what it was, where R172 says that it stays
0, is the model's reading (log 12). -/
def Obligations.IllegalWordsAreTheListedOnes : Prop :=
  (∀ w : Word, (∃ e, decode w = .error e) ↔ IllegalWord w) ∧
  (∀ s : State, IllegalWord s.cmd →
    complete s = .next { s with status := { busy := false, done := s.status.done, err := true, errCode := 1 } })

/-- R83. The worked encodings: each line of assembler (R81) gives its word, and the word its command. -/
def Obligations.WorkedEncodingsAgree : Prop :=
  (AsmLine.nttf 0 0 3).assemble = some 0x40600000 ∧ decode 0x40600000 = .ok (.nttf 0 3 0) ∧
  (AsmLine.nttf 1 0 3).assemble = some 0x40640000 ∧ decode 0x40640000 = .ok (.nttf 0 3 1) ∧
  (AsmLine.pmul 0 1 0 3).assemble = some 0x60608000 ∧ decode 0x60608000 = .ok (.pmul 0 3 0 1) ∧
  (AsmLine.ntti 0 0 3).assemble = some 0x50600000 ∧ decode 0x50600000 = .ok (.ntti 0 3 0) ∧
  (AsmLine.carryBank 0 1 3).assemble = some 0x80600100 ∧ decode 0x80600100 = .ok (.carry 3 0 1 false) ∧
  (AsmLine.crt3 0 1 2 3).assemble = some 0x7060A000 ∧ decode 0x7060A000 = .ok (.crt3 3 0 1 2) ∧
  (AsmLine.carryWide 5 3).assemble = some 0x80600580 ∧ decode 0x80600580 = .ok (.carry 3 0 5 true) ∧
  (AsmLine.mulmod 1).assemble = some 0x14000000 ∧ decode 0x14000000 = .ok (.mulmod 1) ∧
  (AsmLine.powmod 2).assemble = some 0x28000000 ∧ decode 0x28000000 = .ok (.powmod 2) ∧
  (AsmLine.invmod 0).assemble = some 0x30000000 ∧ decode 0x30000000 = .ok (.invmod 0)

/-! ## The engine's step and the end of a command -/

/-- A step with a pending command that the engine's latency lets pass no input before runs the decoded command, and
ends any other word with ILLEGAL_CMD; a word placed as the pending command is what the next step runs (R168, logs 3, 4). -/
def Obligations.StepRunsTheDecodedCommand : Prop :=
  (∀ (s : State) (i : Instr), s.status.busy = true → (s.wait = 0 ∨ s.inputs = []) → decode s.cmd = .ok i →
    step s = exec i s) ∧
  (∀ (s : State) (e : DecodeError), s.status.busy = true → (s.wait = 0 ∨ s.inputs = []) →
    decode s.cmd = .error e → step s = .next (s.raise .illegalCmd)) ∧
  (∀ (s : State) (w : Nat) (i : Instr), decodeTableWord 32 w = some i →
    step (s.withFetchWord 32 w) = exec i (s.withFetchWord 32 w))

/-- Every command completes: BUSY is 0, and either ERR and the code are set and DONE is what it was, or DONE is set and ERR
and ERRCODE are what they were (R172). R172 says of these that they stay 0: that they keep any value is the model's
reading (log 12), and they are 0 while a command is pending (R23). -/
def Obligations.EveryCommandSetsStatusAtCompletion : Prop :=
  ∀ (i : Instr) (s : State), ∃ t, exec i s = .next t ∧
    ((∃ e : ErrorCode, t.status = { busy := false, done := s.status.done, err := true, errCode := e.code }) ∨
     t.status = { busy := false, done := true, err := s.status.err, errCode := s.status.errCode })

/-- R166. A command that ends with an error changes nothing but STATUS. -/
def Obligations.ErrorsArePrecise : Prop :=
  ∀ (i : Instr) (s t : State), s.status.err = false → exec i s = .next t → t.status.err = true →
    t = { s with status := t.status }

/-- R167, with the causes of R162, R163, R164, R170 and R171. A command reports the first of its conditions that hold,
in the order of R167, and succeeds when none holds. -/
def Obligations.FirstErrorIsReported : Prop :=
  ∀ (i : Instr) (s : State),
    (∀ e, ErrorHolds i s e → (∀ e', rank e' < rank e → ¬ErrorHolds i s e') → exec i s = .next (s.raise e)) ∧
    ((∀ e, ¬ErrorHolds i s e) → ∃ t, exec i s = .next t ∧ t.status = s.status.succeeded)

/-- The engine writes no register but STATUS, SR, DLEN and DCOUNT, and nothing of the host interface (R25, R27, R36). -/
def Obligations.EngineKeepsOperandRegisters : Prop :=
  ∀ (i : Instr) (s t : State), exec i s = .next t →
    t = { s with status := t.status, sr := t.sr, dlen := t.dlen, dcount := t.dcount, mem := t.mem }

/-- SR changes only through MULMOD, POWMOD and INVMOD, which leave a residue of the modulus they use: of the commands no
other changes it, and in the whole machine a step that changes it takes a reset or completes one of the three without
error (R26, R38). -/
def Obligations.SrIsWrittenByScalarCommandsOnly : Prop :=
  (∀ (i : Instr) (s t : State), exec i s = .next t →
    t.sr = s.sr ∨
    ∃ k, (i = .mulmod k ∨ i = .powmod k ∨ i = .invmod k) ∧ t.sr.toNat < s.prime k ∧ t.status = s.status.succeeded) ∧
  (∀ s t : State, step s = .next t → t.sr ≠ s.sr →
    (s.inputs.head? = some .reset ∧ t = ({ s with inputs := s.inputs.tail } : State).assertReset) ∨
    (s.status.busy = true ∧
      ∃ k, (decode s.cmd = .ok (.mulmod k) ∨ decode s.cmd = .ok (.powmod k) ∨ decode s.cmd = .ok (.invmod k)) ∧
        t.sr.toNat < s.prime k ∧ t.status = s.status.succeeded))

/-- Whole machine: DLEN, DCOUNT and digit memory change only when a CARRY completes without error, or when a reset is
taken (R29, R33, R57, R59). -/
def Obligations.DigitsAreWrittenByCarryOnly : Prop :=
  ∀ s t : State, step s = .next t →
    (t.dlen ≠ s.dlen ∨ t.dcount ≠ s.dcount ∨ ∃ a, inDigitMemory s.params a ∧ t.readByte a ≠ s.readByte a) →
    (s.inputs.head? = some .reset ∧ t = ({ s with inputs := s.inputs.tail } : State).assertReset) ∨
    (s.status.busy = true ∧ ∃ l ba d w, decode s.cmd = .ok (.carry l ba d w) ∧ t.status = s.status.succeeded)

/-- R31. An array command changes no element at an index of n or more, and its results do not depend on any. -/
def Obligations.ArrayCommandsStayBelowTheirLength : Prop :=
  (∀ (i : Instr) (l : Log2N) (s t : State), log2n? i = some l → exec i s = .next t →
    ∀ j, 2 ^ l.val ≤ j → j < s.params.nmax → t.wide j = s.wide j ∧ ∀ b, t.bank b j = s.bank b j) ∧
  (∀ (i : Instr) (l : Log2N) (s v : State), log2n? i = some l → s.status.err = false → SameRegisters s v →
    (∀ j, j < 2 ^ l.val → v.wide j = s.wide j ∧ ∀ b, v.bank b j = s.bank b j) →
    ∃ t u, exec i s = .next t ∧ exec i v = .next u ∧ SameRegisters t u ∧
      (∀ j, j < 2 ^ l.val → u.wide j = t.wide j ∧ ∀ b, u.bank b j = t.bank b j) ∧
      (∀ l' ba d w, i = .carry l' ba d w → t.status.err = false →
        ∀ k, k < t.dcount.toNat → u.digit k = t.digit k))

/-- Frame over all commands: a byte of memory changes only inside the destination that the command computes: BANK[BA]
below n for NTTF, NTTI and PMUL, WMEM below n for CRT3, DMEM below DCOUNT for CARRY; a scalar command stores nothing
(R31, R77, R147). -/
def Obligations.MemoryChangesOnlyInTheDestination : Prop :=
  ∀ (i : Instr) (s t : State) (a : Nat), exec i s = .next t → t.readByte a ≠ s.readByte a →
    match i with
    | .mulmod _ => False
    | .powmod _ => False
    | .invmod _ => False
    | .nttf _ l ba => bankAddr ba 0 ≤ a ∧ a < bankAddr ba (2 ^ l.val)
    | .ntti _ l ba => bankAddr ba 0 ≤ a ∧ a < bankAddr ba (2 ^ l.val)
    | .pmul _ l ba _ => bankAddr ba 0 ≤ a ∧ a < bankAddr ba (2 ^ l.val)
    | .crt3 l _ _ _ => wideAddr 0 ≤ a ∧ a < wideAddr (2 ^ l.val)
    | .carry _ _ _ _ => digitAddr 0 ≤ a ∧ a < digitAddr t.dcount.toNat

/-! ## The modular kernel -/

/-- R90. mulmod is the residue of the exact product, which is below 2^64 for a modulus of 32 bits. -/
def Obligations.MulmodIsTheResidueOfTheProduct : Prop :=
  ∀ a b p : Nat, 2 ≤ p →
    mulmod a b p = a % p * (b % p) % p ∧ mulmod a b p = a * b % p ∧ mulmod a b p < p ∧
    (p < 2 ^ 32 → a % p * (b % p) < 2 ^ 64)

/-- R91. powmod is the residue of the power, with a^0 = 1 for every a. -/
def Obligations.PowmodIsTheResidueOfThePower : Prop :=
  ∀ a e p : Nat, 2 ≤ p → powmod a e p = a ^ e % p ∧ powmod a e p < p ∧ powmod a 0 p = 1

/-- R92. For a not 0 mod p, invmod is the power p - 2 for every p >= 2, 1 for p = 2, and the inverse when p is prime. -/
def Obligations.InvmodIsAnInverseForPrimes : Prop :=
  ∀ a p : Nat, 2 ≤ p → a % p ≠ 0 →
    invmod a p = a ^ (p - 2) % p ∧ (p = 2 → invmod a p = 1) ∧ (p.Prime → a * invmod a p % p = 1)

/-- R100. The algebraic laws of the kernel. -/
def Obligations.KernelLaws : Prop :=
  ∀ p : Nat, 2 ≤ p →
    (∀ a b, mulmod a b p = mulmod b a p) ∧
    (∀ a, mulmod a 1 p = a % p) ∧
    (∀ a, mulmod a 0 p = 0) ∧
    (∀ a e1 e2, powmod a (e1 + e2) p = mulmod (powmod a e1 p) (powmod a e2 p) p) ∧
    (∀ a, powmod a 1 p = a % p) ∧
    (p.Prime → ∀ a, a % p ≠ 0 → powmod a (p - 1) p = 1 ∧ mulmod a (invmod a p) p = 1)

/-- MULMOD completes: SR is SA·SB mod P, STATUS reports success, nothing else changes (R94, R99). -/
def Obligations.MulmodCompletes : Prop :=
  ∀ (k : ModSel) (s : State), k ≠ 3 → 2 ≤ s.prime k →
    ∃ t, exec (.mulmod k) s = .next t ∧ t = { s with sr := t.sr, status := s.status.succeeded } ∧
      t.sr.toNat = s.sa.toNat * s.sb.toNat % s.prime k

/-- POWMOD completes: SR is SA^SB mod P, STATUS reports success, nothing else changes (R95, R99). -/
def Obligations.PowmodCompletes : Prop :=
  ∀ (k : ModSel) (s : State), k ≠ 3 → 2 ≤ s.prime k →
    ∃ t, exec (.powmod k) s = .next t ∧ t = { s with sr := t.sr, status := s.status.succeeded } ∧
      t.sr.toNat = s.sa.toNat ^ s.sb.toNat % s.prime k

/-- INVMOD completes for SA not 0 mod P: SR is SA^(P-2) mod P, an inverse when P is prime; nothing else but STATUS
changes, and SB is not read (R96, R99). -/
def Obligations.InvmodCompletes : Prop :=
  ∀ (k : ModSel) (s : State), k ≠ 3 → 2 ≤ s.prime k → s.sa.toNat % s.prime k ≠ 0 →
    ∃ t, exec (.invmod k) s = .next t ∧ t = { s with sr := t.sr, status := s.status.succeeded } ∧
      t.sr.toNat = s.sa.toNat ^ (s.prime k - 2) % s.prime k ∧
      ((s.prime k).Prime → s.sa.toNat * t.sr.toNat % s.prime k = 1) ∧
      ∀ v, ∃ u, exec (.invmod k) { s with sb := v } = .next u ∧ u.sr = t.sr

/-- PMUL completes: each of the n elements of BANK[BA] is the product of the two banks' elements mod P, with BA = BB the
square; no byte outside them and no register but STATUS changes (R97). -/
def Obligations.PmulCompletes : Prop :=
  ∀ (k : ModSel) (l : Log2N) (ba bb : BankIx) (s : State), k ≠ 3 → 2 ≤ s.prime k →
    FitsBank s l → HasBank s ba → HasBank s bb →
    ∃ t, exec (.pmul k l ba bb) s = .next t ∧ OnlyMemory s t ∧
      (∀ i, i < 2 ^ l.val →
        (t.bank ba i).toNat = (s.bank ba i).toNat * (s.bank bb i).toNat % s.prime k) ∧
      (∀ a, a < bankAddr ba 0 ∨ bankAddr ba (2 ^ l.val) ≤ a → t.readByte a = s.readByte a)

/-! ## The transform engine -/

/-- R110. Bit t of bitrev(i, k) is bit k-1-t of i, bitrev(i, 0) is 0, and the two worked sequences. -/
def Obligations.BitrevReversesBits : Prop :=
  (∀ i k t : Nat, i < 2 ^ k → t < k → (bitrev i k).testBit t = i.testBit (k - 1 - t)) ∧
  (∀ i k : Nat, i < 2 ^ k → bitrev i k < 2 ^ k) ∧
  (∀ i : Nat, bitrev i 0 = 0) ∧
  (List.range 4).map (fun i => bitrev i 2) = [0, 2, 1, 3] ∧
  (List.range 8).map (fun i => bitrev i 3) = [0, 4, 2, 6, 1, 5, 3, 7]

/-- R111. The swaps leave a'[i] = a[bitrev(i, L)] for every i. -/
def Obligations.SwapsAreTheBitReversalPermutation : Prop :=
  ∀ (l : Nat) (a : List Nat), a.length = 2 ^ l →
    ∀ i, i < 2 ^ l → elem (bitrevPermute l a) i = elem a (bitrev i l)

/-- NTTF completes when n divides P - 1, for every root: with n = 1 the element is unchanged, with n >= 2 every element
is a residue; the elements are those of the stages of R113 on the bit-reversed array, which is the array of the model's
own loops; no byte outside them and no register but STATUS changes (R112, R113, R115). -/
def Obligations.NttfCompletes : Prop :=
  ∀ (k : ModSel) (l : Log2N) (ba : BankIx) (s : State),
    k ≠ 3 → 2 ≤ s.prime k → FitsBank s l → HasBank s ba → 2 ^ l.val ∣ s.prime k - 1 →
    ∃ t, exec (.nttf k l ba) s = .next t ∧ OnlyMemory s t ∧
      (l = 0 → t.bank ba 0 = s.bank ba 0) ∧
      (l ≠ 0 → ∀ i, i < 2 ^ l.val → (t.bank ba i).toNat < s.prime k) ∧
      (∀ i, i < 2 ^ l.val → (t.bank ba i).toNat =
        network (s.prime k) (forwardRoot (s.prime k) (s.root k))
          (fun m => (s.bank ba (bitrev m l.val)).toNat) l.val i) ∧
      (∀ i, i < 2 ^ l.val → (t.bank ba i).toNat =
        elem (forwardNtt (s.prime k) (s.root k) l.val (s.bankPrefix ba (2 ^ l.val))) i) ∧
      (∀ a, a < bankAddr ba 0 ∨ bankAddr ba (2 ^ l.val) ≤ a → t.readByte a = s.readByte a)

/-- NTTI completes when n divides P - 1 and no stage root is 0: every element is a residue, with n = 1 that of the
element; the elements are those of the stages of R113 with the inverse roots on the bit-reversed array, scaled by the
power P - 2 of n, which is the array of the model's own loops; no byte outside them and no register but STATUS changes
(R112, R113, R114, R116). -/
def Obligations.NttiCompletes : Prop :=
  ∀ (k : ModSel) (l : Log2N) (ba : BankIx) (s : State),
    k ≠ 3 → 2 ≤ s.prime k → FitsBank s l → HasBank s ba → 2 ^ l.val ∣ s.prime k - 1 →
    (∀ j, 1 ≤ j → j ≤ l.val → s.root k ^ ((s.prime k - 1) / 2 ^ j) % s.prime k ≠ 0) →
    ∃ t, exec (.ntti k l ba) s = .next t ∧ OnlyMemory s t ∧
      (l = 0 → (t.bank ba 0).toNat = (s.bank ba 0).toNat % s.prime k) ∧
      (∀ i, i < 2 ^ l.val → (t.bank ba i).toNat < s.prime k) ∧
      (∀ i, i < 2 ^ l.val → (t.bank ba i).toNat =
        network (s.prime k) (inverseRoot (s.prime k) (s.root k))
          (fun m => (s.bank ba (bitrev m l.val)).toNat) l.val i * (2 ^ l.val) ^ (s.prime k - 2) % s.prime k) ∧
      (∀ i, i < 2 ^ l.val → (t.bank ba i).toNat =
        elem (inverseNtt (s.prime k) (s.root k) l.val (s.bankPrefix ba (2 ^ l.val))) i) ∧
      (∀ a, a < bankAddr ba 0 ∨ bankAddr ba (2 ^ l.val) ≤ a → t.readByte a = s.readByte a)

/-- NTTF computes the discrete Fourier transform, for n >= 2 and a root whose power (P-1)/2 is -1 mod P. Both are
premises because the closed form of R115 does not hold without them (log 15); n = 1 and every other root are in
NttfCompletes. -/
def Obligations.NttfIsTheFourierTransform : Prop :=
  ∀ (k : ModSel) (l : Log2N) (ba : BankIx) (s : State),
    k ≠ 3 → 2 ≤ s.prime k → 1 ≤ l.val → FitsBank s l → HasBank s ba → 2 ^ l.val ∣ s.prime k - 1 →
    s.root k ^ ((s.prime k - 1) / 2) % s.prime k = s.prime k - 1 →
    ∃ t, exec (.nttf k l ba) s = .next t ∧
      ∀ c, c < 2 ^ l.val → (t.bank ba c).toNat =
        (Finset.range (2 ^ l.val)).sum (fun j =>
          (s.bank ba j).toNat * (s.root k ^ ((s.prime k - 1) / 2 ^ l.val)) ^ (j * c)) % s.prime k

/-- NTTI computes the inverse transform, scaled by the inverse of n, under the premises of the forward closed form
(log 15); the inverses are the powers P - 2 (R92, R116); n = 1 and every other root are in NttiCompletes. -/
def Obligations.NttiIsTheInverseFourierTransform : Prop :=
  ∀ (k : ModSel) (l : Log2N) (ba : BankIx) (s : State),
    k ≠ 3 → 2 ≤ s.prime k → 1 ≤ l.val → FitsBank s l → HasBank s ba → 2 ^ l.val ∣ s.prime k - 1 →
    s.root k ^ ((s.prime k - 1) / 2) % s.prime k = s.prime k - 1 →
    ∃ t, exec (.ntti k l ba) s = .next t ∧
      ∀ c, c < 2 ^ l.val → (t.bank ba c).toNat =
        (2 ^ l.val) ^ (s.prime k - 2) *
          (Finset.range (2 ^ l.val)).sum (fun j =>
            (s.bank ba j).toNat *
              ((s.root k ^ ((s.prime k - 1) / 2 ^ l.val)) ^ (s.prime k - 2)) ^ (j * c)) % s.prime k

/-- R117. NTTF then NTTI returns the array, reduced mod P where an element was not, under (b) and (c); (c) holds for
every n that divides P - 1 when G is a primitive root. -/
def Obligations.InverseTransformUndoesTransform : Prop :=
  (∀ (k : ModSel) (l : Log2N) (ba : BankIx) (s : State),
    k ≠ 3 → FitsBank s l → HasBank s ba → 2 ^ l.val ∣ s.prime k - 1 → GoodRoot (s.prime k) (s.root k) (2 ^ l.val) →
    ∃ t, exec (.nttf k l ba) s = .next t ∧
      ∀ v : State, v.mem = t.mem → v.epoch = t.epoch → v.params = t.params →
        v.prime k = s.prime k → v.root k = s.root k →
        ∃ u, exec (.ntti k l ba) v = .next u ∧
          ∀ i, i < 2 ^ l.val →
            (u.bank ba i).toNat = (s.bank ba i).toNat % s.prime k ∧
            ((s.bank ba i).toNat < s.prime k → u.bank ba i = s.bank ba i)) ∧
  (∀ p g n : Nat, p.Prime → 0 < n → n ∣ p - 1 → orderOf (g : ZMod p) = p - 1 → GoodRoot p g n)

/-- R118. NTTF A, NTTF B, PMUL A B, NTTI A leave in bank A the convolution of two zero-padded arrays mod P, which is the
exact coefficient where that is below P. -/
def Obligations.TransformsConvolve : Prop :=
  ∀ (k : ModSel) (l : Log2N) (ba bb : BankIx) (s : State) (la lb : Nat),
    k ≠ 3 → ba ≠ bb → FitsBank s l → HasBank s ba → HasBank s bb →
    2 ^ l.val ∣ s.prime k - 1 → GoodRoot (s.prime k) (s.root k) (2 ^ l.val) →
    la + lb ≤ 2 ^ l.val →
    (∀ i, i < 2 ^ l.val → (s.bank ba i).toNat < s.prime k ∧ (s.bank bb i).toNat < s.prime k) →
    (∀ i, la ≤ i → i < 2 ^ l.val → s.bank ba i = 0) → (∀ i, lb ≤ i → i < 2 ^ l.val → s.bank bb i = 0) →
    ∃ t1 t2 t3 t4,
      exec (.nttf k l ba) s = .next t1 ∧ exec (.nttf k l bb) t1 = .next t2 ∧
      exec (.pmul k l ba bb) t2 = .next t3 ∧ exec (.ntti k l ba) t3 = .next t4 ∧
      ∀ c, c < 2 ^ l.val →
        (t4.bank ba c).toNat =
          (Finset.range (c + 1)).sum (fun i => (s.bank ba i).toNat * (s.bank bb (c - i)).toNat) % s.prime k ∧
        ((Finset.range (c + 1)).sum (fun i => (s.bank ba i).toNat * (s.bank bb (c - i)).toNat) < s.prime k →
          (t4.bank ba c).toNat =
            (Finset.range (c + 1)).sum (fun i => (s.bank ba i).toNat * (s.bank bb (c - i)).toNat))

/-! ## The CRT reconstructor -/

/-- R132. garner is the mixed-radix formula (inverses as the powers of R92), below P1·P2·P3, and for distinct primes the
one number there with the three residues. -/
def Obligations.GarnerIsTheChineseRemainder : Prop :=
  (∀ p1 p2 p3 r1 r2 r3 : Nat, 2 ≤ p1 → 2 ≤ p2 → 2 ≤ p3 →
    ∃ x1 x2 x3 y : Nat, x1 = r1 % p1 ∧ x2 = (r2 % p2 + p2 - x1 % p2) * (p1 % p2) ^ (p2 - 2) % p2 ∧
      y = x1 + x2 * p1 ∧ x3 = (r3 % p3 + p3 - y % p3) * (p1 * p2 % p3) ^ (p3 - 2) % p3 ∧
      garner p1 p2 p3 r1 r2 r3 = y + x3 * (p1 * p2)) ∧
  (∀ p1 p2 p3 r1 r2 r3 : Nat, 2 ≤ p1 → 2 ≤ p2 → 2 ≤ p3 → garner p1 p2 p3 r1 r2 r3 < p1 * p2 * p3) ∧
  (∀ p1 p2 p3 r1 r2 r3 : Nat, p1.Prime → p2.Prime → p3.Prime → p1 ≠ p2 → p1 ≠ p3 → p2 ≠ p3 →
    (garner p1 p2 p3 r1 r2 r3 % p1 = r1 % p1 ∧ garner p1 p2 p3 r1 r2 r3 % p2 = r2 % p2 ∧
      garner p1 p2 p3 r1 r2 r3 % p3 = r3 % p3) ∧
    ∀ x, x < p1 * p2 * p3 → x % p1 = r1 % p1 → x % p2 = r2 % p2 → x % p3 = r3 % p3 →
      x = garner p1 p2 p3 r1 r2 r3)

/-- CRT3 completes when no inverse is of 0: each of the n wide words is the Garner value of the three banks' words, below
2^96, and for distinct primes has their residues; no byte outside the words, so no bank, and no register but STATUS
changes (R131, R133, R134). -/
def Obligations.Crt3Completes : Prop :=
  ∀ (l : Log2N) (ba bb bc : BankIx) (s : State), 2 ≤ s.prime 0 → 2 ≤ s.prime 1 → 2 ≤ s.prime 2 →
    FitsBank s l → HasBank s ba → HasBank s bb → HasBank s bc →
    s.prime 0 % s.prime 1 ≠ 0 → s.prime 0 * s.prime 1 % s.prime 2 ≠ 0 →
    ∃ t, exec (.crt3 l ba bb bc) s = .next t ∧ OnlyMemory s t ∧
      (∀ i, i < 2 ^ l.val →
        (t.wide i).toNat = garner (s.prime 0) (s.prime 1) (s.prime 2)
          (s.bank ba i).toNat (s.bank bb i).toNat (s.bank bc i).toNat ∧
        (t.wide i).toNat < 2 ^ 96 ∧ (t.wide i).toNat < s.prime 0 * s.prime 1 * s.prime 2) ∧
      ((s.prime 0).Prime → (s.prime 1).Prime → (s.prime 2).Prime →
        s.prime 0 ≠ s.prime 1 → s.prime 0 ≠ s.prime 2 → s.prime 1 ≠ s.prime 2 →
        ∀ i, i < 2 ^ l.val →
          (t.wide i).toNat % s.prime 0 = (s.bank ba i).toNat % s.prime 0 ∧
          (t.wide i).toNat % s.prime 1 = (s.bank bb i).toNat % s.prime 1 ∧
          (t.wide i).toNat % s.prime 2 = (s.bank bc i).toNat % s.prime 2) ∧
      (∀ a, a < wideAddr 0 ∨ wideAddr (2 ^ l.val) ≤ a → t.readByte a = s.readByte a)

/-! ## The carry propagator -/

/-- CARRY completes and prints the exact sum: DMEM[0 .. DCOUNT-1] are decimal digits whose value is the sum of the
coefficients at the powers of 10^DIG; no byte outside them and no register but STATUS, DLEN and DCOUNT changes
(R72, R141 to R143, R146, R147). -/
def Obligations.CarryPrintsTheExactSum : Prop :=
  ∀ (l : Log2N) (ba : BankIx) (dig : DigitCount) (w : Bool) (s : State), GoodCarry s l ba dig w →
    ∃ t, exec (.carry l ba dig w) s = .next t ∧
      t = { s with status := s.status.succeeded, mem := t.mem, dlen := t.dlen, dcount := t.dcount } ∧
      (∀ k, k < t.dcount.toNat → (t.digit k).toNat ≤ 9) ∧
      (Finset.range t.dcount.toNat).sum (fun k => (t.digit k).toNat * 10 ^ k) =
        carryValue s ba w dig.val (2 ^ l.val) ∧
      (∀ a, a < digitAddr 0 ∨ digitAddr t.dcount.toNat ≤ a → t.readByte a = s.readByte a)

/-- R144. DLEN is the index of the most significant nonzero digit plus 1, or 1 with DMEM[0] = 0 when every digit is 0. -/
def Obligations.DlenCountsSignificantDigits : Prop :=
  ∀ (l : Log2N) (ba : BankIx) (dig : DigitCount) (w : Bool) (s : State), GoodCarry s l ba dig w →
    ∃ t, exec (.carry l ba dig w) s = .next t ∧ 1 ≤ t.dlen.toNat ∧ t.dlen.toNat ≤ t.dcount.toNat ∧
      (∀ k, t.dlen.toNat ≤ k → k < t.dcount.toNat → t.digit k = 0) ∧
      (t.digit (t.dlen.toNat - 1) ≠ 0 ∨ (t.dlen = 1 ∧ t.digit 0 = 0))

/-- R145. DCOUNT is DIG·n plus DIG times the number of flush chunks: the chunks that the carry out of the last
coefficient, the printed number divided by B^n, takes. -/
def Obligations.DcountCountsWrittenDigits : Prop :=
  ∀ (l : Log2N) (ba : BankIx) (dig : DigitCount) (w : Bool) (s : State), GoodCarry s l ba dig w →
    ∃ t m, exec (.carry l ba dig w) s = .next t ∧ t.dcount.toNat = dig.val * 2 ^ l.val + dig.val * m ∧
      carryValue s ba w dig.val (2 ^ l.val) / 10 ^ (dig.val * 2 ^ l.val) < 10 ^ (dig.val * m) ∧
      (m ≠ 0 → 10 ^ (dig.val * (m - 1)) ≤ carryValue s ba w dig.val (2 ^ l.val) / 10 ^ (dig.val * 2 ^ l.val))

/-- R151. The carry out of the last coefficient is below 2^125 and has at most 38 digits, the flush emits at most
ceil(38/DIG) chunks and 38 + DIG - 1 digits, CARRY never writes past the end of DMEM, and the worked example. -/
def Obligations.CarryFitsDigitMemory : Prop :=
  (∀ (l : Log2N) (ba : BankIx) (dig : DigitCount) (w : Bool) (s : State), GoodCarry s l ba dig w →
    carryValue s ba w dig.val (2 ^ l.val) / 10 ^ (dig.val * 2 ^ l.val) < 2 ^ 125 ∧
    carryValue s ba w dig.val (2 ^ l.val) / 10 ^ (dig.val * 2 ^ l.val) < 10 ^ 38 ∧
    ∃ t m, exec (.carry l ba dig w) s = .next t ∧ t.dcount.toNat = dig.val * 2 ^ l.val + dig.val * m ∧
      m ≤ (38 + dig.val - 1) / dig.val ∧ dig.val * m ≤ 38 + dig.val - 1 ∧
      t.dcount.toNat ≤ dig.val * 2 ^ l.val + 46 ∧ t.dcount.toNat < 9 * 2 ^ s.params.log2Nmax.val + 48) ∧
  (∀ s : State, s.wide 0 = BitVec.ofNat 128 (2 ^ 128 - 1) →
    ∃ t, exec (.carry 0 0 9 true) s = .next t ∧ t.dcount = 45 ∧ t.dlen = 39)

/-! ## Host transactions -/

/-- Exactly the accesses that are not 4 bytes wide at a multiple of 4 that is mapped are BUSERR; such a read returns 0,
and nothing changes (R51 to R54). With the parameters of R8 the mapped offsets are the ranges of R51. That an offset of
2^26 or more is outside the aperture, so BUSERR, is the model's reading (log 13). -/
def Obligations.BusErrorsAreTheUnmappedAccesses : Prop :=
  (∀ (p : Config.Params) (w a : Nat), target p w a = none ↔ ¬(w = 4 ∧ ReachableIn p a)) ∧
  (∀ a, ReachableIn Config.defaults a ↔ Reachable a) ∧
  (∀ (s : State) (w a : Nat) (v : Word), ¬(w = 4 ∧ ReachableIn s.params a) →
    s.response (.read w a) = (.busErr, some 0) ∧ s.effect (.read w a) = s ∧
    s.response (.write w a v) = (.busErr, none) ∧ s.effect (.write w a v) = s) ∧
  (∀ (s : State) (w a : Nat) (v : Word), w = 4 ∧ ReachableIn s.params a →
    (s.response (.read w a)).1 = .okay ∧ s.response (.write w a v) = (.okay, none))

/-- R55. A read of a bank's offset returns the element, and a write, answered OKAY, sets it to any value and changes no
other byte and no register. -/
def Obligations.BankAccessReadsAndWritesTheElement : Prop :=
  ∀ (s : State) (b : BankIx) (i : Nat) (v : Word), HasBank s b → i < s.params.nmax →
    s.response (.read 4 (0x1000000 + b.val * 0x200000 + 4 * i)) = (.okay, some (s.bank b i)) ∧
    s.response (.write 4 (0x1000000 + b.val * 0x200000 + 4 * i) v) = (.okay, none) ∧
    s.effect (.write 4 (0x1000000 + b.val * 0x200000 + 4 * i) v) =
      { s with mem := (s.effect (.write 4 (0x1000000 + b.val * 0x200000 + 4 * i) v)).mem } ∧
    (s.effect (.write 4 (0x1000000 + b.val * 0x200000 + 4 * i) v)).bank b i = v ∧
    ∀ a, a < 0x1000000 + b.val * 0x200000 + 4 * i ∨ 0x1000000 + b.val * 0x200000 + 4 * i + 4 ≤ a →
      (s.effect (.write 4 (0x1000000 + b.val * 0x200000 + 4 * i) v)).readByte a = s.readByte a

/-- R56. A read returns 32 bits of the wide word, least significant word first, and a write, answered OKAY, replaces
exactly those and changes no other byte and no register. -/
def Obligations.WideAccessIsLittleEndianByWord : Prop :=
  ∀ (s : State) (i j : Nat) (v : Word), i < s.params.nmax → j < 4 →
    s.response (.read 4 (0x2000000 + 16 * i + 4 * j)) = (.okay, some ((s.wide i).extractLsb' (32 * j) 32)) ∧
    ((s.effect (.write 4 (0x2000000 + 16 * i + 4 * j) v)).wide i).extractLsb' (32 * j) 32 = v ∧
    (∀ m, m < 4 → m ≠ j →
      ((s.effect (.write 4 (0x2000000 + 16 * i + 4 * j) v)).wide i).extractLsb' (32 * m) 32 =
        (s.wide i).extractLsb' (32 * m) 32) ∧
    (∀ n, n ≠ i → (s.effect (.write 4 (0x2000000 + 16 * i + 4 * j) v)).wide n = s.wide n) ∧
    s.response (.write 4 (0x2000000 + 16 * i + 4 * j) v) = (.okay, none) ∧
    s.effect (.write 4 (0x2000000 + 16 * i + 4 * j) v) =
      { s with mem := (s.effect (.write 4 (0x2000000 + 16 * i + 4 * j) v)).mem } ∧
    ∀ a, a < 0x2000000 + 16 * i + 4 * j ∨ 0x2000000 + 16 * i + 4 * j + 4 ≤ a →
      (s.effect (.write 4 (0x2000000 + 16 * i + 4 * j) v)).readByte a = s.readByte a

/-- R57. A read returns four digits, the lowest index in the lowest byte; a write is answered OKAY and ignored. -/
def Obligations.DigitAccessIsReadOnlyLittleEndian : Prop :=
  ∀ (s : State) (q : Nat) (v : Word), q < s.params.dcap / 4 →
    s.response (.read 4 (0x3000000 + 4 * q)) =
      (.okay, some (s.digit (4 * q + 3) ++ s.digit (4 * q + 2) ++ s.digit (4 * q + 1) ++ s.digit (4 * q))) ∧
    s.response (.write 4 (0x3000000 + 4 * q) v) = (.okay, none) ∧
    s.effect (.write 4 (0x3000000 + 4 * q) v) = s

/-- R59. Writes to read-only registers, to reserved bits of CTRL and to the bits of STATUS that clear nothing are
answered OKAY and ignored. -/
def Obligations.ReadOnlyRegistersIgnoreWrites : Prop :=
  (∀ (s : State) (a : Nat) (v : Word), a = 0x000 ∨ a = 0x018 ∨ a = 0x040 ∨ a = 0x044 →
    s.response (.write 4 a v) = (.okay, none) ∧ s.effect (.write 4 a v) = s) ∧
  (∀ (s : State) (v : Word), s.response (.write 4 0x004 v) = (.okay, none) ∧
    s.effect (.write 4 0x004 v) = { s with irqEn := v.getLsbD 0 } ∧
    (s.effect (.write 4 0x004 v)).response (.read 4 0x004) = (.okay, some (v &&& 1))) ∧
  (∀ (s : State) (v : Word), v.getLsbD 1 = false → v.getLsbD 2 = false →
    s.response (.write 4 0x008 v) = (.okay, none) ∧ s.effect (.write 4 0x008 v) = s)

/-- Every register at its number of R20: what a read of each returns, PARAMS and STATUS bit by bit (R21, R23), what a write
of each does, answered OKAY, and that what is written to SA, SB and the descriptors reads back and leaves every other
register. A write to CMD submits (R24, R169), one to STATUS clears by ones (R23), one to CTRL sets IRQ_EN (R22), and the
read-only registers ignore theirs (R59). It says nothing of the model's two fields of log 3. -/
def Obligations.ReadWriteRegistersReadBack : Prop :=
  (∀ s : State,
    (∃ w, s.response (.read 4 0x000) = (.okay, some w) ∧ bits w 4 0 = s.params.log2Nmax.val ∧ bits w 7 5 = 0 ∧
      bits w 11 8 = s.params.nbanks - 1 ∧ bits w 15 12 = 9 ∧ bits w 17 16 = 3 ∧ bits w 31 18 = 0) ∧
    (∃ c, s.response (.read 4 0x004) = (.okay, some c) ∧ c.getLsbD 0 = s.irqEn ∧ c >>> 1 = 0) ∧
    (∃ st, s.response (.read 4 0x008) = (.okay, some st) ∧ st.getLsbD 0 = s.status.busy ∧
      st.getLsbD 1 = s.status.done ∧ st.getLsbD 2 = s.status.err ∧ st.getLsbD 3 = false ∧
      st.extractLsb' 4 4 = s.status.errCode ∧ st >>> 8 = 0) ∧
    s.response (.read 4 0x00C) = (.okay, some s.cmd) ∧
    s.response (.read 4 0x010) = (.okay, some s.sa) ∧ s.response (.read 4 0x014) = (.okay, some s.sb) ∧
    s.response (.read 4 0x018) = (.okay, some s.sr) ∧
    s.response (.read 4 0x020) = (.okay, some s.modP0) ∧ s.response (.read 4 0x024) = (.okay, some s.modG0) ∧
    s.response (.read 4 0x028) = (.okay, some s.modP1) ∧ s.response (.read 4 0x02C) = (.okay, some s.modG1) ∧
    s.response (.read 4 0x030) = (.okay, some s.modP2) ∧ s.response (.read 4 0x034) = (.okay, some s.modG2) ∧
    s.response (.read 4 0x040) = (.okay, some s.dlen) ∧ s.response (.read 4 0x044) = (.okay, some s.dcount)) ∧
  (∀ (s : State) (a : Nat) (v : Word), a ∈ regOffsets → s.response (.write 4 a v) = (.okay, none)) ∧
  (∀ (s : State) (v : Word),
    s.effect (.write 4 0x000 v) = s ∧
    s.effect (.write 4 0x004 v) = { s with irqEn := v.getLsbD 0 } ∧
    s.effect (.write 4 0x008 v) = { s with
      status :=
        { busy := s.status.busy
          done := s.status.done && !v.getLsbD 1
          err := s.status.err && !v.getLsbD 2
          errCode := if v.getLsbD 2 then 0 else s.status.errCode } } ∧
    s.effect (.write 4 0x00C v) = { s with
      cmd := v
      status := { busy := true, done := false, err := false, errCode := 0 }
      wait := (s.effect (.write 4 0x00C v)).wait
      draws := (s.effect (.write 4 0x00C v)).draws } ∧
    s.effect (.write 4 0x018 v) = s ∧ s.effect (.write 4 0x040 v) = s ∧ s.effect (.write 4 0x044 v) = s) ∧
  (∀ (s : State) (v : Word),
    s.effect (.write 4 0x010 v) = { s with sa := v } ∧ s.effect (.write 4 0x014 v) = { s with sb := v } ∧
    s.effect (.write 4 0x020 v) = { s with modP0 := v } ∧ s.effect (.write 4 0x024 v) = { s with modG0 := v } ∧
    s.effect (.write 4 0x028 v) = { s with modP1 := v } ∧ s.effect (.write 4 0x02C v) = { s with modG1 := v } ∧
    s.effect (.write 4 0x030 v) = { s with modP2 := v } ∧ s.effect (.write 4 0x034 v) = { s with modG2 := v }) ∧
  (∀ (s : State) (r : Reg) (v : Word),
    r ∈ [Reg.sa, Reg.sb, Reg.modP0, Reg.modG0, Reg.modP1, Reg.modG1, Reg.modP2, Reg.modG2] →
    (s.effect (.write 4 r.offset v)).response (.read 4 r.offset) = (.okay, some v) ∧
    (∀ q : Reg, q ≠ r → (s.effect (.write 4 r.offset v)).readReg q = s.readReg q) ∧
    (s.effect (.write 4 r.offset v)).mem = s.mem ∧ (s.effect (.write 4 r.offset v)).status = s.status)

/-- R64. A read changes nothing but the list of answers, and the same read again is answered the same; of the writes a
write to CMD submits a command and one to STATUS clears the outcome, and any other only stores its value: one at a
register's offset changes no memory and no other register, one at any other offset no register and no byte but its own
four, and none changes STATUS, CMD, SR, DLEN, DCOUNT or a digit. -/
def Obligations.OnlyCmdAndStatusWritesHaveSideEffects : Prop :=
  (∀ (s : State) (h w a : Nat),
    s.perform ⟨h, .read w a⟩ = { s with answers := (s.perform ⟨h, .read w a⟩).answers } ∧
    (s.perform ⟨h, .read w a⟩).response (.read w a) = s.response (.read w a)) ∧
  (∀ (s : State) (v : Word),
    (s.effect (.write 4 0x00C v)).cmd = v ∧ (s.effect (.write 4 0x00C v)).status.busy = true ∧
    (s.effect (.write 4 0x008 6)).status = { busy := s.status.busy, done := false, err := false, errCode := 0 }) ∧
  (∀ (s : State) (w a : Nat) (v : Word), a ≠ 0x00C → a ≠ 0x008 →
    (s.effect (.write w a v)).status = s.status ∧ (s.effect (.write w a v)).cmd = s.cmd ∧
    (s.effect (.write w a v)).sr = s.sr ∧ (s.effect (.write w a v)).dlen = s.dlen ∧
    (s.effect (.write w a v)).dcount = s.dcount ∧ (∀ k, (s.effect (.write w a v)).digit k = s.digit k) ∧
    (∀ q : Reg, q.offset ≠ a → (s.effect (.write w a v)).readReg q = s.readReg q) ∧
    (a ∈ regOffsets → (s.effect (.write w a v)).mem = s.mem) ∧
    (a ∉ regOffsets → s.effect (.write w a v) = { s with mem := (s.effect (.write w a v)).mem }) ∧
    ∀ x, x < a ∨ a + 4 ≤ x → (s.effect (.write w a v)).readByte x = s.readByte x)

/-- R174. A write to STATUS with bit 1 set clears DONE, with bit 2 set ERR and ERRCODE, and does nothing else. -/
def Obligations.StatusWriteClearsByOnes : Prop :=
  ∀ (s : State) (v : Word),
    let t := s.effect (.write 4 0x008 v)
    t = { s with status := t.status } ∧ t.status.busy = s.status.busy ∧
    (v.getLsbD 1 = true → t.status.done = false) ∧ (v.getLsbD 1 = false → t.status.done = s.status.done) ∧
    (v.getLsbD 2 = true → t.status.err = false ∧ t.status.errCode = 0) ∧
    (v.getLsbD 2 = false → t.status.err = s.status.err ∧ t.status.errCode = s.status.errCode)

/-- R169. A performed write of CMD stores any word, legal or not, clears DONE, ERR and ERRCODE and sets BUSY; of the
spec's state nothing else changes, and an illegal word fails at completion. It says nothing of the model's two fields of
log 3. -/
def Obligations.CmdWriteAcceptsTheCommand : Prop :=
  ∀ (s : State) (v : Word),
    s.response (.write 4 0x00C v) = (.okay, none) ∧
    s.effect (.write 4 0x00C v) =
      { s with
        cmd := v
        status := { busy := true, done := false, err := false, errCode := 0 }
        wait := (s.effect (.write 4 0x00C v)).wait
        draws := (s.effect (.write 4 0x00C v)).draws } ∧
    (IllegalWord v → complete (s.effect (.write 4 0x00C v)) = .next ((s.effect (.write 4 0x00C v)).raise .illegalCmd))

/-- R37. The interrupt output is IRQ_EN and (DONE or ERR): a completion raises it when enabled, and acceptance of the next
command or clearing both bits lowers it. -/
def Obligations.InterruptFollowsCompletion : Prop :=
  (∀ s : State, s.irq = true ↔ s.irqEn = true ∧ (s.status.done = true ∨ s.status.err = true)) ∧
  (∀ (i : Instr) (s t : State), exec i s = .next t → t.irq = s.irqEn) ∧
  (∀ (s : State) (v : Word), (s.effect (.write 4 0x00C v)).irq = false) ∧
  (∀ s : State, (s.effect (.write 4 0x008 6)).irq = false)

/-- PARAMS reports the parameters in the fields of R21, reads as 0x0003_9713 with those of R8, and a read of it is
answered so even while a command runs (R21, R60, log 3). -/
def Obligations.ParamsIsConstant : Prop :=
  (∀ s : State, ∃ w, s.response (.read 4 0x000) = (.okay, some w) ∧ bits w 4 0 = s.params.log2Nmax.val ∧
    bits w 7 5 = 0 ∧ bits w 11 8 = s.params.nbanks - 1 ∧ bits w 15 12 = 9 ∧ bits w 17 16 = 3 ∧ bits w 31 18 = 0) ∧
  (∀ s : State, s.params = Config.defaults → s.response (.read 4 0x000) = (.okay, some 0x00039713)) ∧
  (∀ (s : State) (h k : Nat) (rest : List Input), s.status.busy = true → s.wait = k + 1 →
    s.inputs = .issue ⟨h, .read 4 0x000⟩ :: rest → s.isWaiting h = false → s.hostAtFault h = false →
    step s = .next { s with
      inputs := rest
      wait := k
      answers := ⟨h, .read 4 0x000, .okay, (s.response (.read 4 0x000)).2⟩ :: s.answers })

/-- LOADBANK writes the elements of a bank and SETMOD a descriptor: the transactions they expand to, performed in order
(R55, R82). -/
def Obligations.HostPseudoOperationsLoadTheirTargets : Prop :=
  (∀ (s : State) (b : BankIx) (vs : List Word), HasBank s b → vs.length ≤ s.params.nmax →
    ∀ i (h : i < vs.length), (((HostOp.loadBank b vs).txs).foldl State.effect s).bank b i = vs[i]) ∧
  (∀ (s : State) (p g : Word),
    ((HostOp.setMod 0 p g).txs).foldl State.effect s = { s with modP0 := p, modG0 := g } ∧
    ((HostOp.setMod 1 p g).txs).foldl State.effect s = { s with modP1 := p, modG1 := g } ∧
    ((HostOp.setMod 2 p g).txs).foldl State.effect s = { s with modP2 := p, modG2 := g })

/-! ## Holds, order and reset -/

/-- The transactions that are held while a command runs are those that are neither BUSERR nor in the list of R60. One
that arrives then has no effect but to be held; any other is performed and answered at once, while the command runs on
(R60). When one arrives is log 3's. -/
def Obligations.BusyCoreHoldsTransactions : Prop :=
  (∀ (s : State) (tx : Tx), tx.isHeld s.params = true ↔ (s.response tx).1 = .okay ∧ ¬AnsweredWhileBusy tx) ∧
  (∀ (s : State) (q : Issue) (k : Nat) (rest : List Input), s.status.busy = true → s.wait = k + 1 →
    s.inputs = .issue q :: rest → s.isWaiting q.host = false → s.hostAtFault q.host = false →
    q.tx.isHeld s.params = true →
    step s = .next { s with inputs := rest, wait := k, held := s.held ++ [q] }) ∧
  (∀ (s : State) (q : Issue) (k : Nat) (rest : List Input), s.status.busy = true → s.wait = k + 1 →
    s.inputs = .issue q :: rest → s.isWaiting q.host = false → s.hostAtFault q.host = false →
    q.tx.isHeld s.params = false →
    ∃ t, step s = .next t ∧
      t = { s.effect q.tx with
        inputs := rest
        wait := k
        answers := ⟨q.host, q.tx, (s.response q.tx).1, (s.response q.tx).2⟩ :: s.answers } ∧
      t.status.busy = true ∧ t.cmd = s.cmd ∧ t.mem = s.mem ∧ t.held = s.held)

/-- A read of SR that is held while a command runs is answered with the command's result: whatever the latency, within
three steps the command has completed and the read has been performed (R60, R195). The number of steps is the model's:
with no input left a command completes at once (log 3). -/
def Obligations.HeldReadSeesTheResult : Prop :=
  ∀ (s t : State) (i : Instr) (h : Nat), s.status.busy = true → s.held = [] →
    s.inputs = [.issue ⟨h, .read 4 0x018⟩] → s.hostAtFault h = false → decode s.cmd = .ok i → exec i s = .next t →
    ∃ n u, n ≤ 3 ∧ Host.Core.run Sys2Proof.core n s = .next u ∧
      u.status = t.status ∧ u.mem = t.mem ∧ u.sr = t.sr ∧
      u.answers = ⟨h, .read 4 0x018, .okay, some t.sr⟩ :: s.answers

/-- A held write of CMD is not lost: once the running command has completed, the next step accepts its word as the new
command, with the registers and memory the first one left (R61, R168). -/
def Obligations.HeldCommandIsAcceptedNext : Prop :=
  ∀ (s t u : State) (i : Instr) (h : Nat) (v : Word), s.status.busy = true → s.wait = 0 →
    s.held = [⟨h, .write 4 0x00C v⟩] → decode s.cmd = .ok i → exec i s = .next t →
    Host.Core.run Sys2Proof.core 2 s = .next u →
    u.cmd = v ∧ u.status = { busy := true, done := false, err := false, errCode := 0 } ∧ u.held = [] ∧
      u.mem = t.mem ∧ u.sr = t.sr ∧ u.dlen = t.dlen ∧ u.dcount = t.dcount

/-- R200. Every pending command completes: after at most `wait` inputs the machine is at the step that completes it, with
every register and memory it reads as it was, unless a reset came first (log 3). -/
def Obligations.PendingCommandCompletes : Prop :=
  ∀ s : State, s.status.busy = true →
    ∃ n u, n ≤ s.wait ∧ Host.Core.run Sys2Proof.core n s = .next u ∧
      ((step u = complete u ∧ u.status.busy = true ∧
        u = { s with
          irqEn := u.irqEn
          status := u.status
          inputs := u.inputs
          held := u.held
          answers := u.answers
          wait := u.wait }) ∨
       (Input.reset ∈ s.inputs.take n ∧ u.status.busy = false))

/-- Reset, whether the core is idle or a command runs: every register takes its reset value, the descriptors those of the
core's RESET_MODULI, which with the parameters of R8 are the numbers of R28; the pending command and every held
transaction are gone without an answer, nothing is reported, IRQ is 0, and every byte of memory is unspecified (R28, R38,
R190, R191). The model's choices are that unspecified is the free value (log 2) and that a reset is one step, taken at
these times, and empties all memory (log 8). -/
def Obligations.ResetPutsRegistersToTheirResetValues : Prop :=
  ∀ (s : State) (rest : List Input), s.inputs = .reset :: rest →
    (s.status.busy = true ∧ 0 < s.wait) ∨ (s.status.busy = false ∧ s.held = []) →
    ∃ t, step s = .next t ∧ t.irqEn = false ∧ t.status.toWord = 0 ∧ t.status.busy = false ∧ t.cmd = 0 ∧
      t.sa = 0 ∧ t.sb = 0 ∧ t.sr = 0 ∧ t.dlen = 0 ∧ t.dcount = 0 ∧
      t.modP0 = s.params.moduli.p0 ∧ t.modG0 = s.params.moduli.g0 ∧ t.modP1 = s.params.moduli.p1 ∧
      t.modG1 = s.params.moduli.g1 ∧ t.modP2 = s.params.moduli.p2 ∧ t.modG2 = s.params.moduli.g2 ∧
      (s.params = Config.defaults →
        t.modP0 = 998244353 ∧ t.modG0 = 3 ∧ t.modP1 = 167772161 ∧ t.modG1 = 3 ∧ t.modP2 = 469762049 ∧ t.modG2 = 3 ∧
          t.readReg .params = 0x00039713) ∧
      t.readReg .params = s.readReg .params ∧ t.held = [] ∧ t.answers = s.answers ∧
      (∀ a, t.readByte a = Config.powerOnByte t.epoch a) ∧ t.irq = false

/-- A host that was answered BUSERR is at fault when it would go on: the idle step that would take its next transaction
stops the machine. That is the only way the machine stops, no step is refused, and a BUSERR itself changes nothing but
the list of answers, so no STATUS bit and no interrupt (R176). Where the fault comes is the model's choice (log 6). -/
def Obligations.OnlyHostBusErrorsStopTheMachine : Prop :=
  (∀ (s : State) (f : Fault), step s = .fault f →
    ∃ q rest, s.status.busy = false ∧ s.held = [] ∧ s.inputs = .issue q :: rest ∧ f = .hostBusError q.host ∧
      ∃ a ∈ s.answers, a.host = q.host ∧ a.response = .busErr) ∧
  (∀ (s : State) (q : Issue) (rest : List Input), s.status.busy = false → s.held = [] → s.inputs = .issue q :: rest →
    (∃ a ∈ s.answers, a.host = q.host ∧ a.response = .busErr) → step s = .fault (.hostBusError q.host)) ∧
  (∀ (s : State) (r : Refusal), step s ≠ .refused r) ∧
  (∀ (s : State) (q : Issue), (s.response q.tx).1 = .busErr →
    s.perform q = { s with answers := ⟨q.host, q.tx, .busErr, (s.response q.tx).2⟩ :: s.answers })

/-! ## Invariants -/

/-- The invariant holds after reset. -/
def Obligations.ResetMeetsTheInvariant : Prop := Inv State.reset

/-- Every step keeps the invariant: canonical memory with nothing written outside the three memories, decimal digits,
the facts of R23 about STATUS, the bounds of DLEN and DCOUNT, at most one held transaction a host. -/
def Obligations.StepKeepsTheInvariant : Prop :=
  ∀ s t : State, Inv s → step s = .next t → Inv t

/-- While a command runs, a host write to STATUS has no effect, since it can only clear bits that are already 0 (R23). -/
def Obligations.StatusWriteWhileBusyHasNoEffect : Prop :=
  ∀ (s : State) (v : Word), Inv s → s.status.busy = true → s.effect (.write 4 0x008 v) = s

/-! ## Held transactions and parameters in general -/

/-- A held transaction is performed in the instant after the command completes, exactly as if issued then (R60): after the
completing step the next one performs the oldest held, whichever it is, on the state the command left. While no command
runs and nothing is held, a step performs the next input of a host that is not at fault, in their order (R65). That the
oldest goes first among several hosts is log 5's, and that a step with nothing to do changes nothing is log 4's. -/
def Obligations.HeldTransactionsArePerformedNext : Prop :=
  (∀ (s t : State) (i : Instr) (q : Issue) (rest : List Issue), s.status.busy = true → s.wait = 0 ∨ s.inputs = [] →
    s.held = q :: rest → decode s.cmd = .ok i → exec i s = .next t →
    Host.Core.run Sys2Proof.core 2 s =
      .next { t.effect q.tx with
        held := rest
        answers := ⟨q.host, q.tx, (t.response q.tx).1, (t.response q.tx).2⟩ :: s.answers }) ∧
  (∀ (s : State) (q : Issue) (rest : List Issue), s.status.busy = false → s.held = q :: rest →
    step s = .next { s.effect q.tx with
      held := rest
      answers := ⟨q.host, q.tx, (s.response q.tx).1, (s.response q.tx).2⟩ :: s.answers }) ∧
  (∀ (s : State) (q : Issue) (rest : List Input), s.status.busy = false → s.held = [] → s.inputs = .issue q :: rest →
    s.hostAtFault q.host = false →
    step s = .next { s.effect q.tx with
      inputs := rest
      answers := ⟨q.host, q.tx, (s.response q.tx).1, (s.response q.tx).2⟩ :: s.answers }) ∧
  (∀ s : State, s.status.busy = false → s.held = [] → s.inputs = [] → step s = .next s)

/-- The parameters of R8 are arguments of the machine: the state after reset has those it is given and their reset moduli,
no step changes them, and the machine's own reset state has the values of R8. -/
def Obligations.ParametersAreFixed : Prop :=
  (∀ p : Config.Params, (State.resetWith p).params = p ∧ Inv (State.resetWith p) ∧
    (State.resetWith p).modP0 = p.moduli.p0 ∧ (State.resetWith p).modG0 = p.moduli.g0 ∧
    (State.resetWith p).modP1 = p.moduli.p1 ∧ (State.resetWith p).modG1 = p.moduli.g1 ∧
    (State.resetWith p).modP2 = p.moduli.p2 ∧ (State.resetWith p).modG2 = p.moduli.g2) ∧
  (∀ s t : State, step s = .next t → t.params = s.params) ∧
  State.reset.params.log2Nmax = 19 ∧ State.reset.params.nbanks = 8 ∧ State.reset.params.nmax = 524288 ∧
  State.reset.params.dcap = 4718640
end

