-- ==== Sys2Proof/Laws/Arrays.lean ====
section
/-! SUPPORT. The array functions of the commands: the lengths they keep and the bounds of what they write. -/

namespace Sys2Proof.Machine

theorem mulmod_lt (a b : Nat) {p : Nat} (h : 0 < p) : mulmod a b p < p := Nat.mod_lt _ h

theorem powLoop_lt {p : Nat} (h : 0 < p) (fuel r b e : Nat) (hr : r < p) : powLoop p fuel r b e < p := by
  induction fuel generalizing r b e with
  | zero => exact hr
  | succ fuel ih =>
    simp only [powLoop]
    split
    · exact hr
    · apply ih
      split
      · exact mulmod_lt _ _ h
      · exact hr

/-! ## Transforms -/

@[simp] theorem length_swapElems (a : List Nat) (i j : Nat) : (swapElems a i j).length = a.length := by
  simp [swapElems]

@[simp] theorem length_bitrevSwaps (l k i : Nat) (a : List Nat) : (bitrevSwaps l k i a).length = a.length := by
  induction k generalizing i a with
  | zero => rfl
  | succ k ih =>
    simp only [bitrevSwaps, ih]
    split <;> simp

@[simp] theorem length_bitrevPermute (l : Nat) (a : List Nat) : (bitrevPermute l a).length = a.length := by
  simp [bitrevPermute]

@[simp] theorem length_butterfly (p w x y : Nat) (a : List Nat) : (butterfly p w x y a).length = a.length := by
  simp [butterfly]

@[simp] theorem length_blockLoop (p half r i k j w : Nat) (a : List Nat) :
    (blockLoop p half r i k j w a).length = a.length := by
  induction k generalizing j w a with
  | zero => rfl
  | succ k ih => simp [blockLoop, ih]

@[simp] theorem length_stageLoop (p half r k i : Nat) (a : List Nat) :
    (stageLoop p half r k i a).length = a.length := by
  induction k generalizing i a with
  | zero => rfl
  | succ k ih => simp [stageLoop, ih]

@[simp] theorem length_stages (p n half : Nat) (rs : List Nat) (a : List Nat) :
    (stages p n half rs a).length = a.length := by
  induction rs generalizing half a with
  | nil => rfl
  | cons r rs ih => simp [stages, ih]

@[simp] theorem length_forwardNtt (p g l : Nat) (a : List Nat) : (forwardNtt p g l a).length = a.length := by
  simp [forwardNtt, transform]

@[simp] theorem length_inverseNtt (p g l : Nat) (a : List Nat) : (inverseNtt p g l a).length = a.length := by
  simp [inverseNtt, transform]

@[simp] theorem length_pointwise (p : Nat) (a b : List Nat) : (pointwise p a b).length = min a.length b.length := by
  simp [pointwise]

theorem length_garnerAll (p1 p2 p3 : Nat) {a b c : List Nat} (hb : b.length = a.length) (hc : c.length = a.length) :
    (garnerAll p1 p2 p3 a b c).length = a.length := by
  induction a generalizing b c with
  | nil => simp [garnerAll]
  | cons x a ih =>
    cases b with
    | nil => simp at hb
    | cons y b =>
      cases c with
      | nil => simp at hc
      | cons z c => simp [garnerAll, ih (b := b) (c := c) (by simpa using hb) (by simpa using hc)]

/-! ## Digits -/

@[simp] theorem length_chunkDigits (dig chunk : Nat) : (chunkDigits dig chunk).length = dig := by simp [chunkDigits]

theorem chunkDigits_le {dig chunk d : Nat} (h : d ∈ chunkDigits dig chunk) : d ≤ 9 := by
  obtain ⟨k, -, rfl⟩ := List.mem_map.mp h
  omega

theorem flushDigits_le {dig fuel c d : Nat} (h : d ∈ flushDigits dig fuel c) : d ≤ 9 := by
  induction fuel generalizing c with
  | zero => simp [flushDigits] at h
  | succ fuel ih =>
    simp only [flushDigits] at h
    split at h
    · simp at h
    · exact (List.mem_append.mp h).elim chunkDigits_le ih

theorem carryDigits_le {dig c d : Nat} {src : List Nat} (h : d ∈ carryDigits dig src c) : d ≤ 9 := by
  induction src generalizing c with
  | nil => exact flushDigits_le h
  | cons v vs ih => exact (List.mem_append.mp h).elim chunkDigits_le ih

theorem significant_le {ds : List Nat} (h : ds ≠ []) : significant ds ≤ ds.length := by
  have key : ∀ t, topIndex ds t ≤ t := by
    intro t
    induction t with
    | zero => exact Nat.le_refl 0
    | succ t ih =>
      simp only [topIndex]
      split <;> omega
  have h1 := key (ds.length - 1)
  have h2 : 0 < ds.length := List.length_pos_iff.mpr h
  simp only [significant]
  omega

end Sys2Proof.Machine
end

