-- ==== Sys2Proof/Laws/Memory.lean ====
section
/-! SUPPORT. The laws of memory: read after write, every other place left alone, and the canonical form kept. -/

namespace Sys2Proof.Machine

namespace Memory

theorem lookup_store (a : Nat) (v : Byte) (m : List Host.Cell) (x : Nat) :
    lookup (store a v m) x = if x = a then some v else lookup m x := by
  induction m with
  | nil => simp [store, lookup, eq_comm]
  | cons c m ih =>
    unfold store
    split
    · by_cases hx : x = a
      · simp [lookup, hx]
      · have h2 : a ≠ x := fun h' => hx h'.symm
        simp [lookup, hx, h2]
    · split
      · rename_i h
        by_cases hx : x = a
        · simp [lookup, hx]
        · have : c.1 ≠ x := fun h' => hx (by omega)
          have h2 : a ≠ x := fun h' => hx h'.symm
          simp [lookup, hx, this, h2]
      · simp only [lookup, ih]
        by_cases hc : c.1 = x
        · have : x ≠ a := by omega
          simp [hc, this]
        · simp [hc]

@[simp] theorem lookup_store_same (a : Nat) (v : Byte) (m : List Host.Cell) :
    lookup (store a v m) a = some v := by simp [lookup_store]

theorem lookup_store_other {a x : Nat} (v : Byte) (m : List Host.Cell) (h : x ≠ a) :
    lookup (store a v m) x = lookup m x := by simp [lookup_store, h]

theorem mem_store {a : Nat} {v : Byte} {m : List Host.Cell} {c : Host.Cell} (h : c ∈ store a v m) :
    c = (a, v) ∨ c ∈ m := by
  induction m with
  | nil => simpa [store] using h
  | cons d m ih =>
    unfold store at h
    split at h
    · simpa using h
    · split at h
      · rcases List.mem_cons.mp h with h | h
        · exact .inl h
        · exact .inr (List.mem_cons_of_mem _ h)
      · rcases List.mem_cons.mp h with h | h
        · exact .inr (h ▸ List.mem_cons_self)
        · exact (ih h).imp_right (List.mem_cons_of_mem _)

theorem wf_store (a : Nat) (v : Byte) {m : List Host.Cell} (h : wf m) : wf (store a v m) := by
  induction m with
  | nil => simp [store, wf]
  | cons c m ih =>
    obtain ⟨hc, hm⟩ := List.pairwise_cons.mp h
    unfold store
    split
    · refine List.pairwise_cons.mpr ⟨fun d hd => ?_, h⟩
      rcases List.mem_cons.mp hd with rfl | hd
      · assumption
      · exact Nat.lt_trans ‹_› (hc d hd)
    · split
      · rename_i heq
        exact List.pairwise_cons.mpr ⟨fun d hd => by simpa [heq] using hc d hd, hm⟩
      · refine List.pairwise_cons.mpr ⟨fun d hd => ?_, ih hm⟩
        rcases mem_store hd with rfl | hd
        · show c.1 < a
          omega
        · exact hc d hd

theorem wf_storeLE (k a v : Nat) {m : List Host.Cell} (h : wf m) : wf (storeLE k a v m) := by
  induction k generalizing a v m with
  | zero => exact h
  | succ k ih => exact ih _ _ (wf_store _ _ h)

theorem wf_storeElems (k a : Nat) (vs : List Nat) {m : List Host.Cell} (h : wf m) : wf (storeElems k a vs m) := by
  induction vs generalizing a m with
  | nil => exact h
  | cons v vs ih => exact ih _ (wf_storeLE _ _ _ h)

/-- Byte `x - a` of the stored number inside the stored bytes, the old byte outside them. -/
theorem lookup_storeLE (k a v : Nat) (m : List Host.Cell) (x : Nat) :
    lookup (storeLE k a v m) x =
      if a ≤ x ∧ x < a + k then some (BitVec.ofNat 8 (v / 256 ^ (x - a))) else lookup m x := by
  induction k generalizing a v m with
  | zero =>
    rw [storeLE, if_neg (by omega)]
  | succ k ih =>
    rw [storeLE, ih, lookup_store]
    by_cases h0 : x = a
    · subst h0
      simp
    · by_cases h1 : a ≤ x ∧ x < a + (k + 1)
      · have h2 : a + 1 ≤ x ∧ x < a + 1 + k := by omega
        have h3 : x - a = (x - (a + 1)) + 1 := by omega
        simp [h1, h2, h3, Nat.pow_succ, Nat.mul_comm, Nat.div_div_eq_div_mul]
      · rw [if_neg (by omega), if_neg h0, if_neg h1]

theorem lookup_storeLE_outside {k a x : Nat} (v : Nat) (m : List Host.Cell) (h : x < a ∨ a + k ≤ x) :
    lookup (storeLE k a v m) x = lookup m x := by
  rw [lookup_storeLE, if_neg (by omega)]

/-- Byte `(x - a) % k` of the stored element `(x - a) / k` inside the stored elements, the old byte outside them. -/
theorem lookup_storeElems (k a : Nat) (vs : List Nat) (m : List Host.Cell) (x : Nat) :
    lookup (storeElems k a vs m) x =
      if a ≤ x ∧ x < a + k * vs.length then
        some (BitVec.ofNat 8 (vs.getD ((x - a) / k) 0 / 256 ^ ((x - a) % k)))
      else lookup m x := by
  induction vs generalizing a m with
  | nil =>
    rw [storeElems, List.length_nil, Nat.mul_zero, if_neg (by omega)]
  | cons v vs ih =>
    rw [storeElems, ih, lookup_storeLE]
    have hlen : k * (v :: vs).length = k + k * vs.length := by simp [Nat.mul_succ, Nat.add_comm]
    rw [hlen]
    by_cases h1 : a + k ≤ x ∧ x < a + k + k * vs.length
    · have hk : 0 < k := by
        rcases Nat.eq_zero_or_pos k with h | h
        · subst h; omega
        · exact h
      have h2 : a ≤ x ∧ x < a + (k + k * vs.length) := by omega
      have h3 : x - a = (x - (a + k)) + k := by omega
      rw [if_pos h1, if_pos h2, h3, Nat.add_div_right _ hk, Nat.add_mod_right]
      simp
    · rw [if_neg h1]
      by_cases h2 : a ≤ x ∧ x < a + k
      · have h3 : a ≤ x ∧ x < a + (k + k * vs.length) := by omega
        have h4 : (x - a) / k = 0 := Nat.div_eq_of_lt (by omega)
        have h5 : (x - a) % k = x - a := Nat.mod_eq_of_lt (by omega)
        rw [if_pos h2, if_pos h3, h4, h5]
        simp
      · rw [if_neg h2, if_neg (by omega)]

theorem lookup_storeElems_outside {k a x : Nat} (vs : List Nat) (m : List Host.Cell)
    (h : x < a ∨ a + k * vs.length ≤ x) : lookup (storeElems k a vs m) x = lookup m x := by
  rw [lookup_storeElems, if_neg (by omega)]

/-- Every cell of a memory after a store is an old one or lies in the stored bytes. -/
theorem mem_storeLE {k a v : Nat} {m : List Host.Cell} {c : Host.Cell} (h : c ∈ storeLE k a v m) :
    c ∈ m ∨ (a ≤ c.1 ∧ c.1 < a + k) := by
  induction k generalizing a v m with
  | zero => exact .inl h
  | succ k ih =>
    rcases ih h with h | h
    · rcases mem_store h with rfl | h
      · right
        show a ≤ a ∧ a < a + (k + 1)
        omega
      · exact .inl h
    · right; omega

theorem mem_storeElems {k a : Nat} {vs : List Nat} {m : List Host.Cell} {c : Host.Cell}
    (h : c ∈ storeElems k a vs m) : c ∈ m ∨ (a ≤ c.1 ∧ c.1 < a + k * vs.length) := by
  induction vs generalizing a m with
  | nil => exact .inl h
  | cons v vs ih =>
    have hlen : k * (v :: vs).length = k + k * vs.length := by simp [Nat.mul_succ, Nat.add_comm]
    rw [hlen]
    rcases ih h with h | h
    · rcases mem_storeLE h with h | h
      · exact .inl h
      · right; omega
    · right; omega

/-- A cell of a canonical memory is what a lookup of its offset finds. -/
theorem lookup_of_mem {m : List Host.Cell} (h : wf m) {c : Host.Cell} (hc : c ∈ m) : lookup m c.1 = some c.2 := by
  induction m with
  | nil => cases hc
  | cons d m ih =>
    obtain ⟨hd, hm⟩ := List.pairwise_cons.mp h
    rcases List.mem_cons.mp hc with rfl | hc
    · simp [lookup]
    · have : d.1 ≠ c.1 := Nat.ne_of_lt (hd c hc)
      simp [lookup, this, ih hm hc]

end Memory

namespace State

/-- A byte depends on memory and the epoch only. -/
theorem readByte_congr {s t : State} {a : Nat} (hm : Memory.lookup t.mem a = Memory.lookup s.mem a)
    (he : t.epoch = s.epoch) : t.readByte a = s.readByte a := by
  simp [readByte, hm, he]

/-- A number depends on its own bytes only. -/
theorem readLE_congr {s t : State} (k : Nat) {a : Nat} (h : ∀ x, a ≤ x → x < a + k → t.readByte x = s.readByte x) :
    t.readLE k a = s.readLE k a := by
  induction k generalizing a with
  | zero => rfl
  | succ k ih =>
    simp only [readLE]
    rw [h a (Nat.le_refl a) (by omega), ih (fun x h1 h2 => h x (by omega) (by omega))]

theorem readLE_lt (s : State) (k a : Nat) : s.readLE k a < 256 ^ k := by
  induction k generalizing a with
  | zero => simp [readLE]
  | succ k ih =>
    have h1 := ih (a + 1)
    have h2 := (s.readByte a).isLt
    simp only [readLE, Nat.pow_succ]
    omega

/-- Bytes that hold a number's bytes read as that number. -/
theorem readLE_of_bytes {s : State} (k : Nat) {a v : Nat}
    (h : ∀ i, i < k → s.readByte (a + i) = BitVec.ofNat 8 (v / 256 ^ i)) : s.readLE k a = v % 256 ^ k := by
  induction k generalizing a v with
  | zero => simp [readLE, Nat.mod_one]
  | succ k ih =>
    have h0 := h 0 (by omega)
    have hr : s.readLE k (a + 1) = (v / 256) % 256 ^ k := by
      apply ih
      intro i hi
      have := h (i + 1) (by omega)
      rw [show a + 1 + i = a + (i + 1) by omega, this, Nat.pow_succ, Nat.mul_comm, Nat.div_div_eq_div_mul]
    simp only [Nat.add_zero, Nat.pow_zero, Nat.div_one] at h0
    have h256 : v % 2 ^ 8 = v % 256 := rfl
    rw [readLE, hr, h0, BitVec.toNat_ofNat, h256, pow_succ', Nat.mod_mul]

end State

end Sys2Proof.Machine
end

