-- ==== Sys2Proof/Laws/State.lean ====
section
/-! SUPPORT. One lemma for each field of State under each named update, so that no proof unfolds a record update. -/

namespace Sys2Proof.Machine.State

variable (s : State)

@[simp] theorem writeWord_params (a : Nat) (v : Word) : (s.writeWord a v).params = s.params := rfl
@[simp] theorem writeWord_irqEn (a : Nat) (v : Word) : (s.writeWord a v).irqEn = s.irqEn := rfl
@[simp] theorem writeWord_status (a : Nat) (v : Word) : (s.writeWord a v).status = s.status := rfl
@[simp] theorem writeWord_cmd (a : Nat) (v : Word) : (s.writeWord a v).cmd = s.cmd := rfl
@[simp] theorem writeWord_sa (a : Nat) (v : Word) : (s.writeWord a v).sa = s.sa := rfl
@[simp] theorem writeWord_sb (a : Nat) (v : Word) : (s.writeWord a v).sb = s.sb := rfl
@[simp] theorem writeWord_sr (a : Nat) (v : Word) : (s.writeWord a v).sr = s.sr := rfl
@[simp] theorem writeWord_modP0 (a : Nat) (v : Word) : (s.writeWord a v).modP0 = s.modP0 := rfl
@[simp] theorem writeWord_modG0 (a : Nat) (v : Word) : (s.writeWord a v).modG0 = s.modG0 := rfl
@[simp] theorem writeWord_modP1 (a : Nat) (v : Word) : (s.writeWord a v).modP1 = s.modP1 := rfl
@[simp] theorem writeWord_modG1 (a : Nat) (v : Word) : (s.writeWord a v).modG1 = s.modG1 := rfl
@[simp] theorem writeWord_modP2 (a : Nat) (v : Word) : (s.writeWord a v).modP2 = s.modP2 := rfl
@[simp] theorem writeWord_modG2 (a : Nat) (v : Word) : (s.writeWord a v).modG2 = s.modG2 := rfl
@[simp] theorem writeWord_dlen (a : Nat) (v : Word) : (s.writeWord a v).dlen = s.dlen := rfl
@[simp] theorem writeWord_dcount (a : Nat) (v : Word) : (s.writeWord a v).dcount = s.dcount := rfl
@[simp] theorem writeWord_mem (a : Nat) (v : Word) : (s.writeWord a v).mem = Memory.storeLE 4 a v.toNat s.mem := rfl
@[simp] theorem writeWord_held (a : Nat) (v : Word) : (s.writeWord a v).held = s.held := rfl
@[simp] theorem writeWord_epoch (a : Nat) (v : Word) : (s.writeWord a v).epoch = s.epoch := rfl
@[simp] theorem writeWord_wait (a : Nat) (v : Word) : (s.writeWord a v).wait = s.wait := rfl
@[simp] theorem writeWord_draws (a : Nat) (v : Word) : (s.writeWord a v).draws = s.draws := rfl
@[simp] theorem writeWord_inputs (a : Nat) (v : Word) : (s.writeWord a v).inputs = s.inputs := rfl
@[simp] theorem writeWord_answers (a : Nat) (v : Word) : (s.writeWord a v).answers = s.answers := rfl

@[simp] theorem setBank_params (b : BankIx) (vs : List Nat) : (s.setBank b vs).params = s.params := rfl
@[simp] theorem setBank_irqEn (b : BankIx) (vs : List Nat) : (s.setBank b vs).irqEn = s.irqEn := rfl
@[simp] theorem setBank_status (b : BankIx) (vs : List Nat) : (s.setBank b vs).status = s.status := rfl
@[simp] theorem setBank_cmd (b : BankIx) (vs : List Nat) : (s.setBank b vs).cmd = s.cmd := rfl
@[simp] theorem setBank_sa (b : BankIx) (vs : List Nat) : (s.setBank b vs).sa = s.sa := rfl
@[simp] theorem setBank_sb (b : BankIx) (vs : List Nat) : (s.setBank b vs).sb = s.sb := rfl
@[simp] theorem setBank_sr (b : BankIx) (vs : List Nat) : (s.setBank b vs).sr = s.sr := rfl
@[simp] theorem setBank_modP0 (b : BankIx) (vs : List Nat) : (s.setBank b vs).modP0 = s.modP0 := rfl
@[simp] theorem setBank_modG0 (b : BankIx) (vs : List Nat) : (s.setBank b vs).modG0 = s.modG0 := rfl
@[simp] theorem setBank_modP1 (b : BankIx) (vs : List Nat) : (s.setBank b vs).modP1 = s.modP1 := rfl
@[simp] theorem setBank_modG1 (b : BankIx) (vs : List Nat) : (s.setBank b vs).modG1 = s.modG1 := rfl
@[simp] theorem setBank_modP2 (b : BankIx) (vs : List Nat) : (s.setBank b vs).modP2 = s.modP2 := rfl
@[simp] theorem setBank_modG2 (b : BankIx) (vs : List Nat) : (s.setBank b vs).modG2 = s.modG2 := rfl
@[simp] theorem setBank_dlen (b : BankIx) (vs : List Nat) : (s.setBank b vs).dlen = s.dlen := rfl
@[simp] theorem setBank_dcount (b : BankIx) (vs : List Nat) : (s.setBank b vs).dcount = s.dcount := rfl
@[simp] theorem setBank_mem (b : BankIx) (vs : List Nat) : (s.setBank b vs).mem = Memory.storeElems 4 (bankAddr b 0) vs s.mem := rfl
@[simp] theorem setBank_held (b : BankIx) (vs : List Nat) : (s.setBank b vs).held = s.held := rfl
@[simp] theorem setBank_epoch (b : BankIx) (vs : List Nat) : (s.setBank b vs).epoch = s.epoch := rfl
@[simp] theorem setBank_wait (b : BankIx) (vs : List Nat) : (s.setBank b vs).wait = s.wait := rfl
@[simp] theorem setBank_draws (b : BankIx) (vs : List Nat) : (s.setBank b vs).draws = s.draws := rfl
@[simp] theorem setBank_inputs (b : BankIx) (vs : List Nat) : (s.setBank b vs).inputs = s.inputs := rfl
@[simp] theorem setBank_answers (b : BankIx) (vs : List Nat) : (s.setBank b vs).answers = s.answers := rfl

@[simp] theorem setWide_params (vs : List Nat) : (s.setWide vs).params = s.params := rfl
@[simp] theorem setWide_irqEn (vs : List Nat) : (s.setWide vs).irqEn = s.irqEn := rfl
@[simp] theorem setWide_status (vs : List Nat) : (s.setWide vs).status = s.status := rfl
@[simp] theorem setWide_cmd (vs : List Nat) : (s.setWide vs).cmd = s.cmd := rfl
@[simp] theorem setWide_sa (vs : List Nat) : (s.setWide vs).sa = s.sa := rfl
@[simp] theorem setWide_sb (vs : List Nat) : (s.setWide vs).sb = s.sb := rfl
@[simp] theorem setWide_sr (vs : List Nat) : (s.setWide vs).sr = s.sr := rfl
@[simp] theorem setWide_modP0 (vs : List Nat) : (s.setWide vs).modP0 = s.modP0 := rfl
@[simp] theorem setWide_modG0 (vs : List Nat) : (s.setWide vs).modG0 = s.modG0 := rfl
@[simp] theorem setWide_modP1 (vs : List Nat) : (s.setWide vs).modP1 = s.modP1 := rfl
@[simp] theorem setWide_modG1 (vs : List Nat) : (s.setWide vs).modG1 = s.modG1 := rfl
@[simp] theorem setWide_modP2 (vs : List Nat) : (s.setWide vs).modP2 = s.modP2 := rfl
@[simp] theorem setWide_modG2 (vs : List Nat) : (s.setWide vs).modG2 = s.modG2 := rfl
@[simp] theorem setWide_dlen (vs : List Nat) : (s.setWide vs).dlen = s.dlen := rfl
@[simp] theorem setWide_dcount (vs : List Nat) : (s.setWide vs).dcount = s.dcount := rfl
@[simp] theorem setWide_mem (vs : List Nat) : (s.setWide vs).mem = Memory.storeElems 16 (wideAddr 0) vs s.mem := rfl
@[simp] theorem setWide_held (vs : List Nat) : (s.setWide vs).held = s.held := rfl
@[simp] theorem setWide_epoch (vs : List Nat) : (s.setWide vs).epoch = s.epoch := rfl
@[simp] theorem setWide_wait (vs : List Nat) : (s.setWide vs).wait = s.wait := rfl
@[simp] theorem setWide_draws (vs : List Nat) : (s.setWide vs).draws = s.draws := rfl
@[simp] theorem setWide_inputs (vs : List Nat) : (s.setWide vs).inputs = s.inputs := rfl
@[simp] theorem setWide_answers (vs : List Nat) : (s.setWide vs).answers = s.answers := rfl

@[simp] theorem setDigits_params (vs : List Nat) : (s.setDigits vs).params = s.params := rfl
@[simp] theorem setDigits_irqEn (vs : List Nat) : (s.setDigits vs).irqEn = s.irqEn := rfl
@[simp] theorem setDigits_status (vs : List Nat) : (s.setDigits vs).status = s.status := rfl
@[simp] theorem setDigits_cmd (vs : List Nat) : (s.setDigits vs).cmd = s.cmd := rfl
@[simp] theorem setDigits_sa (vs : List Nat) : (s.setDigits vs).sa = s.sa := rfl
@[simp] theorem setDigits_sb (vs : List Nat) : (s.setDigits vs).sb = s.sb := rfl
@[simp] theorem setDigits_sr (vs : List Nat) : (s.setDigits vs).sr = s.sr := rfl
@[simp] theorem setDigits_modP0 (vs : List Nat) : (s.setDigits vs).modP0 = s.modP0 := rfl
@[simp] theorem setDigits_modG0 (vs : List Nat) : (s.setDigits vs).modG0 = s.modG0 := rfl
@[simp] theorem setDigits_modP1 (vs : List Nat) : (s.setDigits vs).modP1 = s.modP1 := rfl
@[simp] theorem setDigits_modG1 (vs : List Nat) : (s.setDigits vs).modG1 = s.modG1 := rfl
@[simp] theorem setDigits_modP2 (vs : List Nat) : (s.setDigits vs).modP2 = s.modP2 := rfl
@[simp] theorem setDigits_modG2 (vs : List Nat) : (s.setDigits vs).modG2 = s.modG2 := rfl
@[simp] theorem setDigits_dlen (vs : List Nat) : (s.setDigits vs).dlen = s.dlen := rfl
@[simp] theorem setDigits_dcount (vs : List Nat) : (s.setDigits vs).dcount = s.dcount := rfl
@[simp] theorem setDigits_mem (vs : List Nat) : (s.setDigits vs).mem = Memory.storeElems 1 (digitAddr 0) vs s.mem := rfl
@[simp] theorem setDigits_held (vs : List Nat) : (s.setDigits vs).held = s.held := rfl
@[simp] theorem setDigits_epoch (vs : List Nat) : (s.setDigits vs).epoch = s.epoch := rfl
@[simp] theorem setDigits_wait (vs : List Nat) : (s.setDigits vs).wait = s.wait := rfl
@[simp] theorem setDigits_draws (vs : List Nat) : (s.setDigits vs).draws = s.draws := rfl
@[simp] theorem setDigits_inputs (vs : List Nat) : (s.setDigits vs).inputs = s.inputs := rfl
@[simp] theorem setDigits_answers (vs : List Nat) : (s.setDigits vs).answers = s.answers := rfl

@[simp] theorem setSr_params (v : Nat) : (s.setSr v).params = s.params := rfl
@[simp] theorem setSr_irqEn (v : Nat) : (s.setSr v).irqEn = s.irqEn := rfl
@[simp] theorem setSr_status (v : Nat) : (s.setSr v).status = s.status := rfl
@[simp] theorem setSr_cmd (v : Nat) : (s.setSr v).cmd = s.cmd := rfl
@[simp] theorem setSr_sa (v : Nat) : (s.setSr v).sa = s.sa := rfl
@[simp] theorem setSr_sb (v : Nat) : (s.setSr v).sb = s.sb := rfl
@[simp] theorem setSr_sr (v : Nat) : (s.setSr v).sr = BitVec.ofNat 32 v := rfl
@[simp] theorem setSr_modP0 (v : Nat) : (s.setSr v).modP0 = s.modP0 := rfl
@[simp] theorem setSr_modG0 (v : Nat) : (s.setSr v).modG0 = s.modG0 := rfl
@[simp] theorem setSr_modP1 (v : Nat) : (s.setSr v).modP1 = s.modP1 := rfl
@[simp] theorem setSr_modG1 (v : Nat) : (s.setSr v).modG1 = s.modG1 := rfl
@[simp] theorem setSr_modP2 (v : Nat) : (s.setSr v).modP2 = s.modP2 := rfl
@[simp] theorem setSr_modG2 (v : Nat) : (s.setSr v).modG2 = s.modG2 := rfl
@[simp] theorem setSr_dlen (v : Nat) : (s.setSr v).dlen = s.dlen := rfl
@[simp] theorem setSr_dcount (v : Nat) : (s.setSr v).dcount = s.dcount := rfl
@[simp] theorem setSr_mem (v : Nat) : (s.setSr v).mem = s.mem := rfl
@[simp] theorem setSr_held (v : Nat) : (s.setSr v).held = s.held := rfl
@[simp] theorem setSr_epoch (v : Nat) : (s.setSr v).epoch = s.epoch := rfl
@[simp] theorem setSr_wait (v : Nat) : (s.setSr v).wait = s.wait := rfl
@[simp] theorem setSr_draws (v : Nat) : (s.setSr v).draws = s.draws := rfl
@[simp] theorem setSr_inputs (v : Nat) : (s.setSr v).inputs = s.inputs := rfl
@[simp] theorem setSr_answers (v : Nat) : (s.setSr v).answers = s.answers := rfl

@[simp] theorem putDigits_params (ds : List Nat) : (s.putDigits ds).params = s.params := rfl
@[simp] theorem putDigits_irqEn (ds : List Nat) : (s.putDigits ds).irqEn = s.irqEn := rfl
@[simp] theorem putDigits_status (ds : List Nat) : (s.putDigits ds).status = s.status := rfl
@[simp] theorem putDigits_cmd (ds : List Nat) : (s.putDigits ds).cmd = s.cmd := rfl
@[simp] theorem putDigits_sa (ds : List Nat) : (s.putDigits ds).sa = s.sa := rfl
@[simp] theorem putDigits_sb (ds : List Nat) : (s.putDigits ds).sb = s.sb := rfl
@[simp] theorem putDigits_sr (ds : List Nat) : (s.putDigits ds).sr = s.sr := rfl
@[simp] theorem putDigits_modP0 (ds : List Nat) : (s.putDigits ds).modP0 = s.modP0 := rfl
@[simp] theorem putDigits_modG0 (ds : List Nat) : (s.putDigits ds).modG0 = s.modG0 := rfl
@[simp] theorem putDigits_modP1 (ds : List Nat) : (s.putDigits ds).modP1 = s.modP1 := rfl
@[simp] theorem putDigits_modG1 (ds : List Nat) : (s.putDigits ds).modG1 = s.modG1 := rfl
@[simp] theorem putDigits_modP2 (ds : List Nat) : (s.putDigits ds).modP2 = s.modP2 := rfl
@[simp] theorem putDigits_modG2 (ds : List Nat) : (s.putDigits ds).modG2 = s.modG2 := rfl
@[simp] theorem putDigits_dlen (ds : List Nat) : (s.putDigits ds).dlen = BitVec.ofNat 32 (significant ds) := rfl
@[simp] theorem putDigits_dcount (ds : List Nat) : (s.putDigits ds).dcount = BitVec.ofNat 32 ds.length := rfl
@[simp] theorem putDigits_mem (ds : List Nat) : (s.putDigits ds).mem = Memory.storeElems 1 (digitAddr 0) ds s.mem := rfl
@[simp] theorem putDigits_held (ds : List Nat) : (s.putDigits ds).held = s.held := rfl
@[simp] theorem putDigits_epoch (ds : List Nat) : (s.putDigits ds).epoch = s.epoch := rfl
@[simp] theorem putDigits_wait (ds : List Nat) : (s.putDigits ds).wait = s.wait := rfl
@[simp] theorem putDigits_draws (ds : List Nat) : (s.putDigits ds).draws = s.draws := rfl
@[simp] theorem putDigits_inputs (ds : List Nat) : (s.putDigits ds).inputs = s.inputs := rfl
@[simp] theorem putDigits_answers (ds : List Nat) : (s.putDigits ds).answers = s.answers := rfl

@[simp] theorem raise_params (e : ErrorCode) : (s.raise e).params = s.params := rfl
@[simp] theorem raise_irqEn (e : ErrorCode) : (s.raise e).irqEn = s.irqEn := rfl
@[simp] theorem raise_status (e : ErrorCode) : (s.raise e).status = s.status.failed e := rfl
@[simp] theorem raise_cmd (e : ErrorCode) : (s.raise e).cmd = s.cmd := rfl
@[simp] theorem raise_sa (e : ErrorCode) : (s.raise e).sa = s.sa := rfl
@[simp] theorem raise_sb (e : ErrorCode) : (s.raise e).sb = s.sb := rfl
@[simp] theorem raise_sr (e : ErrorCode) : (s.raise e).sr = s.sr := rfl
@[simp] theorem raise_modP0 (e : ErrorCode) : (s.raise e).modP0 = s.modP0 := rfl
@[simp] theorem raise_modG0 (e : ErrorCode) : (s.raise e).modG0 = s.modG0 := rfl
@[simp] theorem raise_modP1 (e : ErrorCode) : (s.raise e).modP1 = s.modP1 := rfl
@[simp] theorem raise_modG1 (e : ErrorCode) : (s.raise e).modG1 = s.modG1 := rfl
@[simp] theorem raise_modP2 (e : ErrorCode) : (s.raise e).modP2 = s.modP2 := rfl
@[simp] theorem raise_modG2 (e : ErrorCode) : (s.raise e).modG2 = s.modG2 := rfl
@[simp] theorem raise_dlen (e : ErrorCode) : (s.raise e).dlen = s.dlen := rfl
@[simp] theorem raise_dcount (e : ErrorCode) : (s.raise e).dcount = s.dcount := rfl
@[simp] theorem raise_mem (e : ErrorCode) : (s.raise e).mem = s.mem := rfl
@[simp] theorem raise_held (e : ErrorCode) : (s.raise e).held = s.held := rfl
@[simp] theorem raise_epoch (e : ErrorCode) : (s.raise e).epoch = s.epoch := rfl
@[simp] theorem raise_wait (e : ErrorCode) : (s.raise e).wait = s.wait := rfl
@[simp] theorem raise_draws (e : ErrorCode) : (s.raise e).draws = s.draws := rfl
@[simp] theorem raise_inputs (e : ErrorCode) : (s.raise e).inputs = s.inputs := rfl
@[simp] theorem raise_answers (e : ErrorCode) : (s.raise e).answers = s.answers := rfl

@[simp] theorem succeed_params : (s.succeed).params = s.params := rfl
@[simp] theorem succeed_irqEn : (s.succeed).irqEn = s.irqEn := rfl
@[simp] theorem succeed_status : (s.succeed).status = s.status.succeeded := rfl
@[simp] theorem succeed_cmd : (s.succeed).cmd = s.cmd := rfl
@[simp] theorem succeed_sa : (s.succeed).sa = s.sa := rfl
@[simp] theorem succeed_sb : (s.succeed).sb = s.sb := rfl
@[simp] theorem succeed_sr : (s.succeed).sr = s.sr := rfl
@[simp] theorem succeed_modP0 : (s.succeed).modP0 = s.modP0 := rfl
@[simp] theorem succeed_modG0 : (s.succeed).modG0 = s.modG0 := rfl
@[simp] theorem succeed_modP1 : (s.succeed).modP1 = s.modP1 := rfl
@[simp] theorem succeed_modG1 : (s.succeed).modG1 = s.modG1 := rfl
@[simp] theorem succeed_modP2 : (s.succeed).modP2 = s.modP2 := rfl
@[simp] theorem succeed_modG2 : (s.succeed).modG2 = s.modG2 := rfl
@[simp] theorem succeed_dlen : (s.succeed).dlen = s.dlen := rfl
@[simp] theorem succeed_dcount : (s.succeed).dcount = s.dcount := rfl
@[simp] theorem succeed_mem : (s.succeed).mem = s.mem := rfl
@[simp] theorem succeed_held : (s.succeed).held = s.held := rfl
@[simp] theorem succeed_epoch : (s.succeed).epoch = s.epoch := rfl
@[simp] theorem succeed_wait : (s.succeed).wait = s.wait := rfl
@[simp] theorem succeed_draws : (s.succeed).draws = s.draws := rfl
@[simp] theorem succeed_inputs : (s.succeed).inputs = s.inputs := rfl
@[simp] theorem succeed_answers : (s.succeed).answers = s.answers := rfl

@[simp] theorem clearStatus_params (v : Word) : (s.clearStatus v).params = s.params := rfl
@[simp] theorem clearStatus_irqEn (v : Word) : (s.clearStatus v).irqEn = s.irqEn := rfl
@[simp] theorem clearStatus_status (v : Word) : (s.clearStatus v).status = s.status.clear v := rfl
@[simp] theorem clearStatus_cmd (v : Word) : (s.clearStatus v).cmd = s.cmd := rfl
@[simp] theorem clearStatus_sa (v : Word) : (s.clearStatus v).sa = s.sa := rfl
@[simp] theorem clearStatus_sb (v : Word) : (s.clearStatus v).sb = s.sb := rfl
@[simp] theorem clearStatus_sr (v : Word) : (s.clearStatus v).sr = s.sr := rfl
@[simp] theorem clearStatus_modP0 (v : Word) : (s.clearStatus v).modP0 = s.modP0 := rfl
@[simp] theorem clearStatus_modG0 (v : Word) : (s.clearStatus v).modG0 = s.modG0 := rfl
@[simp] theorem clearStatus_modP1 (v : Word) : (s.clearStatus v).modP1 = s.modP1 := rfl
@[simp] theorem clearStatus_modG1 (v : Word) : (s.clearStatus v).modG1 = s.modG1 := rfl
@[simp] theorem clearStatus_modP2 (v : Word) : (s.clearStatus v).modP2 = s.modP2 := rfl
@[simp] theorem clearStatus_modG2 (v : Word) : (s.clearStatus v).modG2 = s.modG2 := rfl
@[simp] theorem clearStatus_dlen (v : Word) : (s.clearStatus v).dlen = s.dlen := rfl
@[simp] theorem clearStatus_dcount (v : Word) : (s.clearStatus v).dcount = s.dcount := rfl
@[simp] theorem clearStatus_mem (v : Word) : (s.clearStatus v).mem = s.mem := rfl
@[simp] theorem clearStatus_held (v : Word) : (s.clearStatus v).held = s.held := rfl
@[simp] theorem clearStatus_epoch (v : Word) : (s.clearStatus v).epoch = s.epoch := rfl
@[simp] theorem clearStatus_wait (v : Word) : (s.clearStatus v).wait = s.wait := rfl
@[simp] theorem clearStatus_draws (v : Word) : (s.clearStatus v).draws = s.draws := rfl
@[simp] theorem clearStatus_inputs (v : Word) : (s.clearStatus v).inputs = s.inputs := rfl
@[simp] theorem clearStatus_answers (v : Word) : (s.clearStatus v).answers = s.answers := rfl

@[simp] theorem accept_params (v : Word) : (s.accept v).params = s.params := rfl
@[simp] theorem accept_irqEn (v : Word) : (s.accept v).irqEn = s.irqEn := rfl
@[simp] theorem accept_status (v : Word) : (s.accept v).status = Status.accepted := rfl
@[simp] theorem accept_cmd (v : Word) : (s.accept v).cmd = v := rfl
@[simp] theorem accept_sa (v : Word) : (s.accept v).sa = s.sa := rfl
@[simp] theorem accept_sb (v : Word) : (s.accept v).sb = s.sb := rfl
@[simp] theorem accept_sr (v : Word) : (s.accept v).sr = s.sr := rfl
@[simp] theorem accept_modP0 (v : Word) : (s.accept v).modP0 = s.modP0 := rfl
@[simp] theorem accept_modG0 (v : Word) : (s.accept v).modG0 = s.modG0 := rfl
@[simp] theorem accept_modP1 (v : Word) : (s.accept v).modP1 = s.modP1 := rfl
@[simp] theorem accept_modG1 (v : Word) : (s.accept v).modG1 = s.modG1 := rfl
@[simp] theorem accept_modP2 (v : Word) : (s.accept v).modP2 = s.modP2 := rfl
@[simp] theorem accept_modG2 (v : Word) : (s.accept v).modG2 = s.modG2 := rfl
@[simp] theorem accept_dlen (v : Word) : (s.accept v).dlen = s.dlen := rfl
@[simp] theorem accept_dcount (v : Word) : (s.accept v).dcount = s.dcount := rfl
@[simp] theorem accept_mem (v : Word) : (s.accept v).mem = s.mem := rfl
@[simp] theorem accept_held (v : Word) : (s.accept v).held = s.held := rfl
@[simp] theorem accept_epoch (v : Word) : (s.accept v).epoch = s.epoch := rfl
@[simp] theorem accept_wait (v : Word) : (s.accept v).wait = Config.latency s.draws s.epoch v s.operandWords s.mem := rfl
@[simp] theorem accept_draws (v : Word) : (s.accept v).draws = s.draws + 1 := rfl
@[simp] theorem accept_inputs (v : Word) : (s.accept v).inputs = s.inputs := rfl
@[simp] theorem accept_answers (v : Word) : (s.accept v).answers = s.answers := rfl

@[simp] theorem submitted_params (v : Word) : (s.submitted v).params = s.params := rfl
@[simp] theorem submitted_irqEn (v : Word) : (s.submitted v).irqEn = s.irqEn := rfl
@[simp] theorem submitted_status (v : Word) : (s.submitted v).status = Status.accepted := rfl
@[simp] theorem submitted_cmd (v : Word) : (s.submitted v).cmd = v := rfl
@[simp] theorem submitted_sa (v : Word) : (s.submitted v).sa = s.sa := rfl
@[simp] theorem submitted_sb (v : Word) : (s.submitted v).sb = s.sb := rfl
@[simp] theorem submitted_sr (v : Word) : (s.submitted v).sr = s.sr := rfl
@[simp] theorem submitted_modP0 (v : Word) : (s.submitted v).modP0 = s.modP0 := rfl
@[simp] theorem submitted_modG0 (v : Word) : (s.submitted v).modG0 = s.modG0 := rfl
@[simp] theorem submitted_modP1 (v : Word) : (s.submitted v).modP1 = s.modP1 := rfl
@[simp] theorem submitted_modG1 (v : Word) : (s.submitted v).modG1 = s.modG1 := rfl
@[simp] theorem submitted_modP2 (v : Word) : (s.submitted v).modP2 = s.modP2 := rfl
@[simp] theorem submitted_modG2 (v : Word) : (s.submitted v).modG2 = s.modG2 := rfl
@[simp] theorem submitted_dlen (v : Word) : (s.submitted v).dlen = s.dlen := rfl
@[simp] theorem submitted_dcount (v : Word) : (s.submitted v).dcount = s.dcount := rfl
@[simp] theorem submitted_mem (v : Word) : (s.submitted v).mem = s.mem := rfl
@[simp] theorem submitted_held (v : Word) : (s.submitted v).held = s.held := rfl
@[simp] theorem submitted_epoch (v : Word) : (s.submitted v).epoch = s.epoch := rfl
@[simp] theorem submitted_wait (v : Word) : (s.submitted v).wait = 0 := rfl
@[simp] theorem submitted_draws (v : Word) : (s.submitted v).draws = s.draws := rfl
@[simp] theorem submitted_inputs (v : Word) : (s.submitted v).inputs = s.inputs := rfl
@[simp] theorem submitted_answers (v : Word) : (s.submitted v).answers = s.answers := rfl

@[simp] theorem assertReset_params : s.assertReset.params = s.params := rfl
@[simp] theorem assertReset_irqEn : s.assertReset.irqEn = (State.resetWith s.params).irqEn := rfl
@[simp] theorem assertReset_status : s.assertReset.status = (State.resetWith s.params).status := rfl
@[simp] theorem assertReset_cmd : s.assertReset.cmd = (State.resetWith s.params).cmd := rfl
@[simp] theorem assertReset_sa : s.assertReset.sa = (State.resetWith s.params).sa := rfl
@[simp] theorem assertReset_sb : s.assertReset.sb = (State.resetWith s.params).sb := rfl
@[simp] theorem assertReset_sr : s.assertReset.sr = (State.resetWith s.params).sr := rfl
@[simp] theorem assertReset_modP0 : s.assertReset.modP0 = s.params.moduli.p0 := rfl
@[simp] theorem assertReset_modG0 : s.assertReset.modG0 = s.params.moduli.g0 := rfl
@[simp] theorem assertReset_modP1 : s.assertReset.modP1 = s.params.moduli.p1 := rfl
@[simp] theorem assertReset_modG1 : s.assertReset.modG1 = s.params.moduli.g1 := rfl
@[simp] theorem assertReset_modP2 : s.assertReset.modP2 = s.params.moduli.p2 := rfl
@[simp] theorem assertReset_modG2 : s.assertReset.modG2 = s.params.moduli.g2 := rfl
@[simp] theorem assertReset_dlen : s.assertReset.dlen = (State.resetWith s.params).dlen := rfl
@[simp] theorem assertReset_dcount : s.assertReset.dcount = (State.resetWith s.params).dcount := rfl
@[simp] theorem assertReset_mem : s.assertReset.mem = (State.resetWith s.params).mem := rfl
@[simp] theorem assertReset_held : s.assertReset.held = (State.resetWith s.params).held := rfl
@[simp] theorem assertReset_epoch : s.assertReset.epoch = s.epoch + 1 := rfl
@[simp] theorem assertReset_wait : s.assertReset.wait = (State.resetWith s.params).wait := rfl
@[simp] theorem assertReset_draws : s.assertReset.draws = s.draws := rfl
@[simp] theorem assertReset_inputs : s.assertReset.inputs = s.inputs := rfl
@[simp] theorem assertReset_answers : s.assertReset.answers = s.answers := rfl

end Sys2Proof.Machine.State
end

