-- ==== Sys2Proof/Laws/Ops.lean ====
section
/-! SUPPORT. What each shared operation can do: the end of a command, elements of memory, registers. -/

namespace Sys2Proof.Machine

/-! ## The end of a command -/

theorem firstError_eq_none {cs : List (Bool × ErrorCode)} : firstError cs = none ↔ ∀ c ∈ cs, c.1 = false := by
  induction cs with
  | nil => simp [firstError]
  | cons c cs ih => cases h : c.1 <;> simp [firstError, h, ih]

theorem firstError_mem {cs : List (Bool × ErrorCode)} {e : ErrorCode} (h : firstError cs = some e) :
    (true, e) ∈ cs := by
  induction cs with
  | nil => simp [firstError] at h
  | cons c cs ih =>
    obtain ⟨b, d⟩ := c
    cases b
    · exact List.mem_cons_of_mem _ (ih (by simpa [firstError] using h))
    · obtain rfl : d = e := by simpa [firstError] using h
      exact List.mem_cons_self

/-- Everything a command can do: an error and nothing else, or its write phase and success. -/
theorem runCommand_cases (checks : List (Bool × ErrorCode)) (write : State → State) (s : State) :
    (∃ e, firstError checks = some e ∧ runCommand checks write s = .next (s.raise e)) ∨
      (firstError checks = none ∧ runCommand checks write s = .next (write s).succeed) := by
  unfold runCommand
  cases h : firstError checks with
  | none => exact .inr ⟨rfl, rfl⟩
  | some e => exact .inl ⟨e, rfl, rfl⟩

theorem runCommand_ok {checks : List (Bool × ErrorCode)} (write : State → State) (s : State)
    (h : firstError checks = none) : runCommand checks write s = .next (write s).succeed := by
  simp [runCommand, h]

theorem runCommand_error {checks : List (Bool × ErrorCode)} {e : ErrorCode} (write : State → State) (s : State)
    (h : firstError checks = some e) : runCommand checks write s = .next (s.raise e) := by
  simp [runCommand, h]

/-! ## The conditions of the check phases -/

@[simp] theorem tooLarge_iff (p : Config.Params) (l : Log2N) : tooLarge p l = true ↔ p.log2Nmax.val < l.val :=
  decide_eq_true_iff

@[simp] theorem notDividing_iff (p : Nat) (l : Log2N) : notDividing p l = true ↔ ¬2 ^ l.val ∣ p - 1 := by
  simp [notDividing, arrayLen, Nat.dvd_iff_mod_eq_zero]

@[simp] theorem badDigitCount_iff (dig : DigitCount) :
    badDigitCount dig = true ↔ dig.val = 0 ∨ 10 ≤ dig.val := by
  have h : badDigitCount dig = true ↔ dig.val < 1 ∨ 9 < dig.val := by
    unfold badDigitCount
    rw [Bool.or_eq_true]
    exact or_congr decide_eq_true_iff decide_eq_true_iff
  rw [h]
  omega

@[simp] theorem badModulus_iff (p : Nat) : badModulus p = true ↔ p < 2 := by simp [badModulus]

@[simp] theorem tooLarge_eq_false (p : Config.Params) (l : Log2N) : tooLarge p l = false ↔ l.val ≤ p.log2Nmax.val := by
  simp [← Bool.not_eq_true]

@[simp] theorem notDividing_eq_false (p : Nat) (l : Log2N) : notDividing p l = false ↔ 2 ^ l.val ∣ p - 1 := by
  simp [← Bool.not_eq_true]

@[simp] theorem badDigitCount_eq_false (dig : DigitCount) :
    badDigitCount dig = false ↔ 1 ≤ dig.val ∧ dig.val ≤ 9 := by
  rw [← Bool.not_eq_true, badDigitCount_iff]
  omega

@[simp] theorem badModulus_eq_false (p : Nat) : badModulus p = false ↔ 2 ≤ p := by
  rw [← Bool.not_eq_true, badModulus_iff]
  omega

@[simp] theorem ModSel.wf_iff (k : ModSel) : ModSel.wf k = true ↔ k ≠ 3 := by simp [ModSel.wf]

@[simp] theorem ModSel.wf_eq_false (k : ModSel) : ModSel.wf k = false ↔ k = 3 := by simp [ModSel.wf]

@[simp] theorem Status.succeeded_busy (st : Status) : st.succeeded.busy = false := rfl
@[simp] theorem Status.succeeded_done (st : Status) : st.succeeded.done = true := rfl
@[simp] theorem Status.succeeded_err (st : Status) : st.succeeded.err = st.err := rfl
@[simp] theorem Status.succeeded_errCode (st : Status) : st.succeeded.errCode = st.errCode := rfl
@[simp] theorem Status.failed_busy (e : ErrorCode) (st : Status) : (st.failed e).busy = false := rfl
@[simp] theorem Status.failed_done (e : ErrorCode) (st : Status) : (st.failed e).done = st.done := rfl
@[simp] theorem Status.failed_err (e : ErrorCode) (st : Status) : (st.failed e).err = true := rfl
@[simp] theorem Status.failed_errCode (e : ErrorCode) (st : Status) : (st.failed e).errCode = e.code := rfl
@[simp] theorem Status.clear_busy (v : Word) (st : Status) : (st.clear v).busy = st.busy := rfl

theorem ErrorCode.code_toNat_pos (e : ErrorCode) : 0 < e.code.toNat := by cases e <;> decide
theorem ErrorCode.code_toNat_le (e : ErrorCode) : e.code.toNat ≤ 6 := by cases e <;> decide
theorem ErrorCode.code_ne_zero (e : ErrorCode) : e.code ≠ 0 := by cases e <;> decide

/-! ## Elements of memory -/

theorem ofNat_mod_of_dvd (w m v : Nat) (h : 2 ^ w ∣ m) : BitVec.ofNat w (v % m) = BitVec.ofNat w v := by
  apply BitVec.eq_of_toNat_eq
  simp [Nat.mod_mod_of_dvd v h]

/-- Inside the stored elements a byte is the element's own byte. -/
theorem readByte_storeElems_inside (s : State) {k a : Nat} (vs : List Nat) {i j : Nat} (hi : i < vs.length) (hj : j < k) :
    ({ s with mem := Memory.storeElems k a vs s.mem } : State).readByte (a + k * i + j) =
      BitVec.ofNat 8 (vs.getD i 0 / 256 ^ j) := by
  have hk : 0 < k := by omega
  have hle : k * i + k ≤ k * vs.length := by
    have : k * (i + 1) ≤ k * vs.length := Nat.mul_le_mul_left k hi
    simpa [Nat.mul_succ] using this
  have hx : a + k * i + j - a = j + k * i := by omega
  have hd : (j + k * i) / k = i := by rw [Nat.add_mul_div_left _ _ hk, Nat.div_eq_of_lt hj, Nat.zero_add]
  have hm : (j + k * i) % k = j := by rw [Nat.add_mul_mod_self_left, Nat.mod_eq_of_lt hj]
  rw [State.readByte, Memory.lookup_storeElems, if_pos (by omega), hx, hd, hm]
  rfl

theorem readByte_storeElems_outside (s : State) {k a x : Nat} (vs : List Nat) (h : x < a ∨ a + k * vs.length ≤ x) :
    ({ s with mem := Memory.storeElems k a vs s.mem } : State).readByte x = s.readByte x :=
  State.readByte_congr (Memory.lookup_storeElems_outside vs s.mem h) rfl

theorem readLE_storeElems_inside (s : State) {k a : Nat} (vs : List Nat) {i : Nat} (hi : i < vs.length) :
    ({ s with mem := Memory.storeElems k a vs s.mem } : State).readLE k (a + k * i) = vs.getD i 0 % 256 ^ k :=
  State.readLE_of_bytes k (fun _ hj => readByte_storeElems_inside s vs hi hj)

theorem bankAddr_eq (b : BankIx) (i : Nat) : bankAddr b i = bankAddr b 0 + 4 * i := by simp [bankAddr]

theorem wideAddr_eq (i : Nat) : wideAddr i = wideAddr 0 + 16 * i := by simp [wideAddr]

theorem digitAddr_eq (i : Nat) : digitAddr i = digitAddr 0 + 1 * i := by simp [digitAddr]

theorem State.bank_setBank (s : State) (b : BankIx) (vs : List Nat) {i : Nat} (hi : i < vs.length) :
    (s.setBank b vs).bank b i = BitVec.ofNat 32 (vs.getD i 0) := by
  have h : (s.setBank b vs).readLE 4 (bankAddr b i) = vs.getD i 0 % 256 ^ 4 := by
    rw [bankAddr_eq]; exact readLE_storeElems_inside s vs hi
  rw [State.bank, h]
  exact ofNat_mod_of_dvd 32 (256 ^ 4) _ (by decide)

theorem State.wide_setWide (s : State) (vs : List Nat) {i : Nat} (hi : i < vs.length) :
    (s.setWide vs).wide i = BitVec.ofNat 128 (vs.getD i 0) := by
  have h : (s.setWide vs).readLE 16 (wideAddr i) = vs.getD i 0 % 256 ^ 16 := by
    rw [wideAddr_eq]; exact readLE_storeElems_inside s vs hi
  rw [State.wide, h]
  exact ofNat_mod_of_dvd 128 (256 ^ 16) _ (by decide)

theorem State.digit_setDigits (s : State) (vs : List Nat) {i : Nat} (hi : i < vs.length) :
    (s.setDigits vs).digit i = BitVec.ofNat 8 (vs.getD i 0) := by
  have h : (s.setDigits vs).readByte (digitAddr 0 + 1 * i + 0) = BitVec.ofNat 8 (vs.getD i 0 / 256 ^ 0) :=
    readByte_storeElems_inside s vs hi (by omega)
  rw [State.digit, digitAddr_eq]
  simpa using h

theorem State.readByte_setBank_outside (s : State) (b : BankIx) (vs : List Nat) {x : Nat}
    (h : x < bankAddr b 0 ∨ bankAddr b vs.length ≤ x) : (s.setBank b vs).readByte x = s.readByte x :=
  readByte_storeElems_outside s vs (by rwa [← bankAddr_eq])

theorem State.readByte_setWide_outside (s : State) (vs : List Nat) {x : Nat}
    (h : x < wideAddr 0 ∨ wideAddr vs.length ≤ x) : (s.setWide vs).readByte x = s.readByte x :=
  readByte_storeElems_outside s vs (by rwa [← wideAddr_eq])

theorem State.readByte_setDigits_outside (s : State) (vs : List Nat) {x : Nat}
    (h : x < digitAddr 0 ∨ digitAddr vs.length ≤ x) : (s.setDigits vs).readByte x = s.readByte x :=
  readByte_storeElems_outside s vs (by rwa [← digitAddr_eq])

theorem State.readByte_writeWord_outside (s : State) {a x : Nat} (v : Word) (h : x < a ∨ a + 4 ≤ x) :
    (s.writeWord a v).readByte x = s.readByte x :=
  State.readByte_congr (Memory.lookup_storeLE_outside v.toNat s.mem h) rfl

theorem State.readWord_writeWord (s : State) (a : Nat) (v : Word) : (s.writeWord a v).readWord a = v := by
  have h : (s.writeWord a v).readLE 4 a = v.toNat % 256 ^ 4 := by
    apply State.readLE_of_bytes
    intro i hi
    rw [State.readByte, State.writeWord_mem, Memory.lookup_storeLE, if_pos (by omega), Nat.add_sub_cancel_left]
    rfl
  rw [State.readWord, h, ofNat_mod_of_dvd 32 (256 ^ 4) _ (by decide)]
  simp

@[simp] theorem State.length_bankPrefix (s : State) (b : BankIx) (n : Nat) : (s.bankPrefix b n).length = n := by
  simp [State.bankPrefix]

@[simp] theorem State.length_widePrefix (s : State) (n : Nat) : (s.widePrefix n).length = n := by
  simp [State.widePrefix]

theorem State.bankPrefix_getD (s : State) (b : BankIx) {n i : Nat} (h : i < n) :
    (s.bankPrefix b n).getD i 0 = (s.bank b i).toNat := by
  simp [State.bankPrefix, List.getD, h]

theorem State.widePrefix_getD (s : State) {n i : Nat} (h : i < n) :
    (s.widePrefix n).getD i 0 = (s.wide i).toNat := by
  simp [State.widePrefix, List.getD, h]

/-- A bank's element depends on its four bytes only. -/
theorem State.bank_congr {s t : State} {b : BankIx} {i : Nat}
    (h : ∀ x, bankAddr b i ≤ x → x < bankAddr b i + 4 → t.readByte x = s.readByte x) : t.bank b i = s.bank b i := by
  rw [State.bank, State.bank, State.readLE_congr 4 h]

/-- A wide word depends on its sixteen bytes only. -/
theorem State.wide_congr {s t : State} {i : Nat}
    (h : ∀ x, wideAddr i ≤ x → x < wideAddr i + 16 → t.readByte x = s.readByte x) : t.wide i = s.wide i := by
  rw [State.wide, State.wide, State.readLE_congr 16 h]

/-! ## Registers -/

theorem Reg.at?_offset (r : Reg) : Reg.at? r.offset = some r := by cases r <;> decide

theorem Reg.offset_of_at? {a : Nat} {r : Reg} (h : Reg.at? a = some r) : r.offset = a := by
  have := List.find?_some h
  simpa using this

/-- No register write but CMD's and STATUS's changes STATUS. -/
theorem State.writeReg_status (s : State) (v : Word) (r : Reg) (h1 : r ≠ .cmd) (h2 : r ≠ .status) :
    (s.writeReg v r).status = s.status := by
  cases r <;> first | rfl | contradiction

/-- No register write changes memory. -/
@[simp] theorem State.writeReg_mem (s : State) (v : Word) (r : Reg) : (s.writeReg v r).mem = s.mem := by
  cases r <;> rfl

@[simp] theorem State.writeReg_params (s : State) (v : Word) (r : Reg) : (s.writeReg v r).params = s.params := by
  cases r <;> rfl

@[simp] theorem State.writeReg_epoch (s : State) (v : Word) (r : Reg) : (s.writeReg v r).epoch = s.epoch := by
  cases r <;> rfl

end Sys2Proof.Machine
end

