-- ==== Sys2Proof/Laws/Engine.lean ====
section
/-! SUPPORT. What one step can do, and what a transaction and a reset change. -/

namespace Sys2Proof.Machine

/-! ## Transactions -/

@[simp] theorem State.effect_read (s : State) (w a : Nat) : s.effect (.read w a) = s := rfl

theorem State.effect_write (s : State) {w a : Nat} {t : Target} (v : Word) (h : target s.params w a = some t) :
    s.effect (.write w a v) = s.writeTarget v t := by simp [State.effect, h]

theorem State.effect_write_unmapped (s : State) {w a : Nat} (v : Word) (h : target s.params w a = none) :
    s.effect (.write w a v) = s := by simp [State.effect, h]

/-- A performed transaction is its effect with one more answer. -/
theorem State.perform_eq (s : State) (q : Issue) :
    s.perform q = { s.effect q.tx with
      answers := ⟨q.host, q.tx, (s.response q.tx).1, (s.response q.tx).2⟩ :: (s.effect q.tx).answers } := rfl

/-- No transaction changes what is held, what is yet to come, or the answers already given. -/
theorem State.effect_keeps (s : State) (tx : Tx) :
    (s.effect tx).held = s.held ∧ (s.effect tx).inputs = s.inputs ∧ (s.effect tx).answers = s.answers ∧
      (s.effect tx).epoch = s.epoch ∧ (s.effect tx).params = s.params := by
  cases tx with
  | read w a => simp
  | write w a v =>
    cases h : target s.params w a with
    | none => simp [State.effect_write_unmapped s v h]
    | some t =>
      rw [State.effect_write s v h]
      cases t with
      | reg r => cases r <;> simp [State.writeTarget, State.writeReg]
      | bank b i => simp [State.writeTarget]
      | wide i j => simp [State.writeTarget]
      | digits q => simp [State.writeTarget]

/-- A transaction answered BUSERR does nothing (R52). -/
theorem State.effect_of_busErr {s : State} {tx : Tx} (h : (s.response tx).1 = .busErr) : s.effect tx = s := by
  cases tx with
  | read w a => rfl
  | write w a v =>
    cases ht : target s.params w a with
    | none => exact s.effect_write_unmapped v ht
    | some t => simp [State.response, ht] at h

/-! ## The step -/

theorem step_busy_last {s : State} (h : s.status.busy = true) (hw : s.wait = 0 ∨ s.inputs = []) :
    step s = complete s := by
  simp only [step, advance, h, if_true, stepBusy]
  rcases hw with hw | hw
  · cases s.inputs <;> simp [hw]
  · simp [hw]

theorem step_busy_input {s : State} {input : Input} {rest : List Input} {k : Nat} (h : s.status.busy = true)
    (hi : s.inputs = input :: rest) (hw : s.wait = k + 1) : step s = takeWhileBusy s input rest k := by
  simp [step, advance, h, stepBusy, hi, hw]

theorem step_idle_held {s : State} {q : Issue} {rest : List Issue} (h : s.status.busy = false)
    (hh : s.held = q :: rest) : step s = .next ({ s with held := rest }.perform q) := by
  simp [step, advance, h, stepIdle, hh]

theorem step_idle_input {s : State} {input : Input} {rest : List Input} (h : s.status.busy = false)
    (hh : s.held = []) (hi : s.inputs = input :: rest) : step s = takeWhileIdle s input rest := by
  simp [step, advance, h, stepIdle, hh, hi]

theorem step_idle_nothing {s : State} (h : s.status.busy = false) (hh : s.held = []) (hi : s.inputs = []) :
    step s = .next s := by
  simp [step, advance, h, stepIdle, hh, hi]

theorem complete_ok {s : State} {i : Instr} (h : decode s.cmd = .ok i) : complete s = exec i s := by
  simp [complete, h]

theorem complete_error {s : State} {e : DecodeError} (h : decode s.cmd = .error e) :
    complete s = .next (s.raise .illegalCmd) := by
  simp [complete, h]

/-- Everything a step can do. -/
theorem step_cases (s : State) :
    (s.status.busy = true ∧ step s = complete s) ∨
    (∃ rest, s.inputs = .reset :: rest ∧ step s = .next { s with inputs := rest }.assertReset) ∨
    (∃ q rest k, s.status.busy = true ∧ s.inputs = .issue q :: rest ∧ s.wait = k + 1 ∧
      s.isWaiting q.host = false ∧ s.hostAtFault q.host = false ∧ q.tx.isHeld s.params = true ∧
      step s = .next { s with inputs := rest, wait := k, held := s.held ++ [q] }) ∨
    (∃ q rest k, s.status.busy = true ∧ s.inputs = .issue q :: rest ∧ s.wait = k + 1 ∧
      s.isWaiting q.host = false ∧ s.hostAtFault q.host = false ∧ q.tx.isHeld s.params = false ∧
      step s = .next ({ s with inputs := rest, wait := k }.perform q)) ∨
    (∃ q rest, s.status.busy = false ∧ s.held = q :: rest ∧
      step s = .next ({ s with held := rest }.perform q)) ∨
    (∃ q rest, s.status.busy = false ∧ s.held = [] ∧ s.inputs = .issue q :: rest ∧
      s.hostAtFault q.host = true ∧ step s = .fault (.hostBusError q.host)) ∨
    (∃ q rest, s.status.busy = false ∧ s.held = [] ∧ s.inputs = .issue q :: rest ∧
      s.hostAtFault q.host = false ∧ step s = .next ({ s with inputs := rest }.perform q)) ∨
    (s.status.busy = false ∧ s.held = [] ∧ s.inputs = [] ∧ step s = .next s) := by
  cases hb : s.status.busy with
  | true =>
    cases hi : s.inputs with
    | nil => exact .inl ⟨rfl, step_busy_last hb (.inr hi)⟩
    | cons input rest =>
      cases hw : s.wait with
      | zero => exact .inl ⟨rfl, step_busy_last hb (.inl hw)⟩
      | succ k =>
        have hs := step_busy_input hb hi hw
        cases input with
        | reset => exact .inr (.inl ⟨rest, rfl, hs⟩)
        | issue q =>
          cases h1 : s.isWaiting q.host <;> cases h2 : s.hostAtFault q.host <;> cases h3 : q.tx.isHeld s.params <;>
            simp [takeWhileBusy, h1, h2, h3] at hs
          case false.false.true =>
            exact .inr (.inr (.inl ⟨q, rest, k, rfl, rfl, rfl, h1, h2, h3, hs⟩))
          case false.false.false =>
            exact .inr (.inr (.inr (.inl ⟨q, rest, k, rfl, rfl, rfl, h1, h2, h3, hs⟩)))
          all_goals exact .inl ⟨rfl, hs⟩
  | false =>
    cases hh : s.held with
    | cons q rest => exact .inr (.inr (.inr (.inr (.inl ⟨q, rest, rfl, rfl, step_idle_held hb hh⟩))))
    | nil =>
      cases hi : s.inputs with
      | nil => exact .inr (.inr (.inr (.inr (.inr (.inr (.inr ⟨rfl, rfl, rfl, step_idle_nothing hb hh hi⟩))))))
      | cons input rest =>
        have hs := step_idle_input hb hh hi
        cases input with
        | reset => exact .inr (.inl ⟨rest, rfl, hs⟩)
        | issue q =>
          cases h2 : s.hostAtFault q.host <;> simp [takeWhileIdle, h2] at hs
          · exact .inr (.inr (.inr (.inr (.inr (.inr (.inl ⟨q, rest, rfl, rfl, rfl, h2, by rw [hs, hh]⟩))))))
          · exact .inr (.inr (.inr (.inr (.inr (.inl ⟨q, rest, rfl, rfl, rfl, h2, hs⟩)))))

end Sys2Proof.Machine
end

