-- ==== Sys2Proof/Laws/Exec.lean ====
section
/-! SUPPORT. Every command as its check phase and its write phase (spec/60_exceptions.md R166), and what follows for all
of them at once. -/

namespace Sys2Proof.Machine

/-- The conditions of a command's check phase, in order. -/
def checksOf (i : Instr) (s : State) : List (Bool × ErrorCode) :=
  match i with
  | .mulmod k => [(!(Instr.wf (.mulmod k)), .illegalCmd), (badModulus (s.prime k), .badModulus)]
  | .powmod k => [(!(Instr.wf (.powmod k)), .illegalCmd), (badModulus (s.prime k), .badModulus)]
  | .invmod k =>
    [(!(Instr.wf (.invmod k)), .illegalCmd), (badModulus (s.prime k), .badModulus), (s.sa.toNat % s.prime k = 0, .invUndef)]
  | .nttf k l ba =>
    [(!(Instr.wf (.nttf k l ba)), .illegalCmd), (badModulus (s.prime k), .badModulus),
     (tooLarge s.params l, .sizeTooLarge), (notDividing (s.prime k) l, .badSize)]
  | .ntti k l ba =>
    [(!(Instr.wf (.ntti k l ba)), .illegalCmd), (badModulus (s.prime k), .badModulus),
     (tooLarge s.params l, .sizeTooLarge), (notDividing (s.prime k) l, .badSize),
     ((stageRoots (s.prime k) (s.root k) l.val).any (fun f => f == 0), .invUndef)]
  | .pmul k l ba bb =>
    [(!(Instr.wf (.pmul k l ba bb)), .illegalCmd), (badModulus (s.prime k), .badModulus),
     (tooLarge s.params l, .sizeTooLarge)]
  | .crt3 l ba bb bc =>
    [(!(Instr.wf (.crt3 l ba bb bc)), .illegalCmd),
     (badModulus (s.prime 0) || badModulus (s.prime 1) || badModulus (s.prime 2), .badModulus), (tooLarge s.params l, .sizeTooLarge),
     (s.prime 0 % s.prime 1 = 0, .invUndef), (s.prime 0 * s.prime 1 % s.prime 2 = 0, .invUndef)]
  | .carry l ba dig w =>
    [(!(Instr.wf (.carry l ba dig w)), .illegalCmd), (tooLarge s.params l, .sizeTooLarge),
     (badDigitCount dig, .badDigits)]

/-- A command's write phase. -/
def writeOf (i : Instr) (s : State) : State :=
  match i with
  | .mulmod k => s.setSr (mulmod s.sa.toNat s.sb.toNat (s.prime k))
  | .powmod k => s.setSr (powmod s.sa.toNat s.sb.toNat (s.prime k))
  | .invmod k => s.setSr (invmod s.sa.toNat (s.prime k))
  | .nttf k l ba => s.setBank ba (forwardNtt (s.prime k) (s.root k) l.val (s.bankPrefix ba (arrayLen l)))
  | .ntti k l ba => s.setBank ba (inverseNtt (s.prime k) (s.root k) l.val (s.bankPrefix ba (arrayLen l)))
  | .pmul k l ba bb =>
    s.setBank ba (pointwise (s.prime k) (s.bankPrefix ba (arrayLen l)) (s.bankPrefix bb (arrayLen l)))
  | .crt3 l ba bb bc =>
    s.setWide (garnerAll (s.prime 0) (s.prime 1) (s.prime 2)
      (s.bankPrefix ba (arrayLen l)) (s.bankPrefix bb (arrayLen l)) (s.bankPrefix bc (arrayLen l)))
  | .carry l ba dig w => s.putDigits (carryDigits dig.val (s.carrySource l ba w) 0)

/-- Every command is its two phases. -/
theorem exec_eq (i : Instr) (s : State) : exec i s = runCommand (checksOf i s) (writeOf i) s := by cases i <;> rfl

/-- Everything a command can do: report an error and nothing else, or write and report success. -/
theorem exec_cases (i : Instr) (s : State) :
    (∃ e, firstError (checksOf i s) = some e ∧ exec i s = .next (s.raise e)) ∨
      (firstError (checksOf i s) = none ∧ exec i s = .next (writeOf i s).succeed) := by
  rw [exec_eq]
  exact runCommand_cases _ _ _

theorem exec_ok {i : Instr} {s : State} (h : firstError (checksOf i s) = none) :
    exec i s = .next (writeOf i s).succeed := by
  rw [exec_eq]
  exact runCommand_ok _ _ h

theorem exec_error {i : Instr} {s : State} {e : ErrorCode} (h : firstError (checksOf i s) = some e) :
    exec i s = .next (s.raise e) := by
  rw [exec_eq]
  exact runCommand_error _ _ h

/-- A write phase touches SR, DLEN, DCOUNT and memory only. -/
theorem writeOf_frame (i : Instr) (s : State) :
    writeOf i s =
      { s with
        sr := (writeOf i s).sr
        dlen := (writeOf i s).dlen
        dcount := (writeOf i s).dcount
        mem := (writeOf i s).mem } := by
  cases i <;> rfl

/-- The commands keep the canonical form of memory. -/
theorem writeOf_wf (i : Instr) {s : State} (h : Memory.wf s.mem) : Memory.wf (writeOf i s).mem := by
  cases i with
  | mulmod k => exact h
  | powmod k => exact h
  | invmod k => exact h
  | nttf k l ba => exact Memory.wf_storeElems _ _ _ h
  | ntti k l ba => exact Memory.wf_storeElems _ _ _ h
  | pmul k l ba bb => exact Memory.wf_storeElems _ _ _ h
  | crt3 l ba bb bc => exact Memory.wf_storeElems _ _ _ h
  | carry l ba dig w => exact Memory.wf_storeElems _ _ _ h

end Sys2Proof.Machine
end

