-- ==== Sys2Proof/Laws/PerInstr.lean ====
section
/-! SUPPORT. The facts about every command as a term, one lemma a constructor: the family Fields says that a command's
word holds its opcode in OP and 0 in every field the opcode does not use (spec/30_encoding.md R71 to R73). -/

namespace Sys2Proof.Laws

/-- A field of the encoding arithmetic of R83, when every operand fits its field. -/
theorem get_encodeFields (f : Field) {op msel log2n ba bb bc dig w : Nat} (h1 : op < 16) (h2 : msel < 4)
    (h3 : log2n < 32) (h4 : ba < 8) (h5 : bb < 8) (h6 : bc < 8) (h7 : dig < 16) (h8 : w < 2) :
    f.get (encodeFields op msel log2n ba bb bc dig w) =
      match f with
      | .op => op | .msel => msel | .log2n => log2n | .ba => ba | .bb => bb | .bc => bc | .dig => dig | .w => w
      | .rsv => 0 := by
  cases f <;> simp only [Field.get, Field.lo, Field.width, encodeFields, BitVec.toNat_ofNat] <;> omega

namespace Fields

/-- OP is the opcode, and the unused fields are 0. -/
def Statement (i : Instr) : Prop :=
  Field.get .op (encode i) = i.opcode.code ∧ ∀ f ∈ i.opcode.mustBeZero, f.get (encode i) = 0

theorem mulmod (k : ModSel) : Statement (.mulmod k) := by
  have := k.isLt
  constructor
  · simp only [encode]
    rw [get_encodeFields] <;> first | rfl | omega
  · intro f hf
    simp only [encode]
    rw [get_encodeFields] <;> first | omega | (cases f <;> simp_all [Instr.opcode, Opcode.mustBeZero])

theorem powmod (k : ModSel) : Statement (.powmod k) := by
  have := k.isLt
  constructor
  · simp only [encode]
    rw [get_encodeFields] <;> first | rfl | omega
  · intro f hf
    simp only [encode]
    rw [get_encodeFields] <;> first | omega | (cases f <;> simp_all [Instr.opcode, Opcode.mustBeZero])

theorem invmod (k : ModSel) : Statement (.invmod k) := by
  have := k.isLt
  constructor
  · simp only [encode]
    rw [get_encodeFields] <;> first | rfl | omega
  · intro f hf
    simp only [encode]
    rw [get_encodeFields] <;> first | omega | (cases f <;> simp_all [Instr.opcode, Opcode.mustBeZero])

theorem nttf (k : ModSel) (l : Log2N) (a : BankIx) : Statement (.nttf k l a) := by
  have := k.isLt
  have := l.isLt
  have := a.isLt
  constructor
  · simp only [encode]
    rw [get_encodeFields] <;> first | rfl | omega
  · intro f hf
    simp only [encode]
    rw [get_encodeFields] <;> first | omega | (cases f <;> simp_all [Instr.opcode, Opcode.mustBeZero])

theorem ntti (k : ModSel) (l : Log2N) (a : BankIx) : Statement (.ntti k l a) := by
  have := k.isLt
  have := l.isLt
  have := a.isLt
  constructor
  · simp only [encode]
    rw [get_encodeFields] <;> first | rfl | omega
  · intro f hf
    simp only [encode]
    rw [get_encodeFields] <;> first | omega | (cases f <;> simp_all [Instr.opcode, Opcode.mustBeZero])

theorem pmul (k : ModSel) (l : Log2N) (a b : BankIx) : Statement (.pmul k l a b) := by
  have := k.isLt
  have := l.isLt
  have := a.isLt
  have := b.isLt
  constructor
  · simp only [encode]
    rw [get_encodeFields] <;> first | rfl | omega
  · intro f hf
    simp only [encode]
    rw [get_encodeFields] <;> first | omega | (cases f <;> simp_all [Instr.opcode, Opcode.mustBeZero])

theorem crt3 (l : Log2N) (a b c : BankIx) : Statement (.crt3 l a b c) := by
  have := l.isLt
  have := a.isLt
  have := b.isLt
  have := c.isLt
  constructor
  · simp only [encode]
    rw [get_encodeFields] <;> first | rfl | omega
  · intro f hf
    simp only [encode]
    rw [get_encodeFields] <;> first | omega | (cases f <;> simp_all [Instr.opcode, Opcode.mustBeZero])

theorem carry (l : Log2N) (a : BankIx) (d : DigitCount) (w : Bool) : Statement (.carry l a d w) := by
  have := l.isLt
  have := a.isLt
  have := d.isLt
  have hw : w.toNat < 2 := Bool.toNat_lt w
  constructor
  · simp only [encode]
    rw [get_encodeFields] <;> first | rfl | omega
  · intro f hf
    simp only [encode]
    rw [get_encodeFields] <;> first | omega | (cases f <;> simp_all [Instr.opcode, Opcode.mustBeZero])

end Fields

end Sys2Proof.Laws
end

