-- ==== Sys2Proof/Tests/Slice0.lean ====
section
/-! SUPPORT. Tests whose expected results are the spec's own examples and vectors (spec/95_test_vectors.md and the worked
examples of the rules), and for each statement with hypotheses a state and operands that meet them. -/

namespace Sys2Proof.Tests

open Sys2Proof.Machine Sys2Proof.Spec

/-! ## Ill-formed commands -/

/-- MSEL = 3 is refused (R76). -/
theorem test_wf_refuses_msel_3 :
    [Instr.mulmod 3, .powmod 3, .invmod 3, .nttf 3 0 0, .ntti 3 0 0, .pmul 3 0 0 0].all (fun i => !i.wf) = true := by
  decide

/-- A CARRY of WMEM with a bank is refused (R78). -/
theorem test_wf_refuses_wide_carry_with_bank : (Instr.carry 0 1 1 true).wf = false := by decide

/-- The same CARRY with BA = 0, or of the bank, is well-formed (R78). -/
theorem test_wf_accepts_carry : ((Instr.carry 0 0 1 true).wf && (Instr.carry 0 1 1 false).wf) = true := by decide

/-! ## Decoding: words written out field by field, OP MSEL LOG2N BA BB BC DIG W RSV (R71, R83) -/

theorem test_decode_mulmod : decode 0b0001_01_00000_000_000_000_0000_0_0000000 = .ok (.mulmod 1) := by decide
theorem test_decode_powmod : decode 0b0010_10_00000_000_000_000_0000_0_0000000 = .ok (.powmod 2) := by decide
theorem test_decode_invmod : decode 0b0011_00_00000_000_000_000_0000_0_0000000 = .ok (.invmod 0) := by decide
theorem test_decode_nttf : decode 0b0100_10_01101_101_000_000_0000_0_0000000 = .ok (.nttf 2 13 5) := by decide
theorem test_decode_ntti : decode 0b0101_01_10011_110_000_000_0000_0_0000000 = .ok (.ntti 1 19 6) := by decide
theorem test_decode_pmul : decode 0b0110_10_00011_010_101_000_0000_0_0000000 = .ok (.pmul 2 3 2 5) := by decide
theorem test_decode_crt3 : decode 0b0111_00_00011_001_010_100_0000_0_0000000 = .ok (.crt3 3 1 2 4) := by decide
theorem test_decode_carry : decode 0b1000_00_00011_011_000_000_0101_0_0000000 = .ok (.carry 3 3 5 false) := by decide
theorem test_decode_carry_wide : decode 0b1000_00_00011_000_000_000_1001_1_0000000 = .ok (.carry 3 0 9 true) := by decide

/-- Each kind of illegal word is refused by its name (V-EN-1, R79). -/
theorem test_decode_refuses :
    decode 0x00000000 = .error (.unassignedOpcode 0) ∧ decode 0x90000000 = .error (.unassignedOpcode 9) ∧
    decode 0x10000001 = .error (.fieldMustBeZero .rsv) ∧ decode 0x10200000 = .error (.fieldMustBeZero .log2n) ∧
    decode 0x1C000000 = .error .noSuchDescriptor ∧ decode 0x40008000 = .error (.fieldMustBeZero .bb) ∧
    decode 0x7C000000 = .error (.fieldMustBeZero .msel) ∧ decode 0x80040180 = .error .wideSourceWithBank := by
  decide

/-- An assembler line whose operand does not fit is refused (R81). -/
theorem test_assembler_refuses_wide_operand : (AsmLine.nttf 8 0 3).assemble = none := by decide

/-- L = 20 encodes, but should be refused (R81). -/
theorem test_assembler_advice :
    ((AsmLine.pmul 0 1 0 20).assemble = some 0x62808000) ∧ (AsmLine.pmul 0 1 0 20).advisable = false := by decide

/-! ## A small state -/

/-- The state after `o`; the state after reset if there is none. -/
def after (o : Host.Outcome State Fault Refusal) : State :=
  match o with
  | .next s => s
  | .fault _ => State.reset
  | .refused _ => State.reset

/-- `o` is a next state. -/
def isNext (o : Host.Outcome State Fault Refusal) : Bool :=
  match o with
  | .next _ => true
  | .fault _ => false
  | .refused _ => false

/-- The reset state with descriptor 0 set and the scalar operands. -/
def scalars (p g sa sb : Word) : State := { State.reset with modP0 := p, modG0 := g, sa := sa, sb := sb }

/-- The reset state with P = 17, G = 3 and a prefix of bank 0 (the small examples of R97, R115, R116). -/
def small (vs : List Nat) : State := (scalars 17 3 0 0).setBank 0 vs

/-- The machine with `word` pending and nothing else to do. -/
def pending (s : State) (word : Word) : State := { s with cmd := word, status := Status.accepted }

/-! ## The commands -/

/-- R94's example. -/
theorem test_mulmod : (after (exec (.mulmod 0) (scalars 998244353 3 123456789 987654321))).sr = 263684735 := by decide

/-- V-MA-2: both operands are reduced first. -/
theorem test_mulmod_reduces :
    (after (exec (.mulmod 0) (scalars 998244353 3 0xFFFFFFFF 0xFFFFFFFF))).sr = 328072143 := by decide

/-- R95's example. -/
theorem test_powmod : (after (exec (.powmod 0) (scalars 998244353 3 3 499122176))).sr = 998244352 := by decide

/-- V-MA-14: the largest exponent. -/
theorem test_powmod_largest :
    (after (exec (.powmod 0) (scalars 998244353 3 0xFFFFFFFF 0xFFFFFFFF))).sr = 265872645 := by decide

/-- R96's example. -/
theorem test_invmod : (after (exec (.invmod 0) (scalars 998244353 3 3 0))).sr = 332748118 := by decide

/-- V-MA-25: SA = 2P ends with INV_UNDEF. -/
theorem test_invmod_of_zero :
    (after (exec (.invmod 0) (scalars 998244353 3 1996488706 0))).status.toWord = 0x64 := by decide

/-- R97's example (V-PM-1). -/
theorem test_pmul :
    ((after (exec (.pmul 0 2 0 1) ((small [3, 15, 1, 6]).setBank 1 [7, 9, 1, 16]))).bankPrefix 0 4) =
      [4, 16, 1, 11] := by decide

/-- V-PM-2: squares. -/
theorem test_pmul_squares : ((after (exec (.pmul 0 2 0 0) (small [3, 15, 1, 6]))).bankPrefix 0 4) = [9, 4, 1, 2] := by
  decide

/-- V-TR-4. -/
theorem test_nttf :
    ((after (exec (.nttf 0 3 0) (small [1, 2, 3, 4, 5, 6, 7, 8]))).bankPrefix 0 8) = [2, 1, 12, 3, 13, 6, 14, 8] := by
  decide

/-- V-TR-11: one element is left as it is. -/
theorem test_nttf_one : ((after (exec (.nttf 0 0 0) (small [40]))).bankPrefix 0 1) = [40] := by decide

/-- R116's example (V-TR-3). -/
theorem test_ntti : ((after (exec (.ntti 0 2 0) (small [4, 16, 1, 11]))).bankPrefix 0 4) = [8, 10, 3, 0] := by decide

/-- V-TR-19: a stage root of 0. -/
theorem test_ntti_zero_root :
    (after (exec (.ntti 0 1 0) ((scalars 17 0 0 0).setBank 0 [5, 6]))).status.toWord = 0x64 := by decide

/-- R133's example (V-CR-1). -/
theorem test_crt3 :
    ((after (exec (.crt3 0 0 1 2)
      (((State.reset.setBank 0 [326606615]).setBank 1 [51255307]).setBank 2 [212551170]))).wide 0) =
      12345678901234567890 := by decide

/-- V-CR-10: the same bank three times. -/
theorem test_crt3_same_bank : ((after (exec (.crt3 0 4 4 4) (State.reset.setBank 4 [7]))).wide 0) = 7 := by decide

/-- R146's example: the digits, DCOUNT and DLEN (V-CA-8). -/
theorem test_carry :
    let t := after (exec (.carry 3 0 1 false) (State.reset.setBank 0 [18, 27, 28, 13, 4, 0, 0, 0]))
    (List.range 8).map (fun k => (t.digit k).toNat) = [8, 8, 0, 6, 5, 0, 0, 0] ∧ t.dcount = 8 ∧ t.dlen = 5 := by decide

/-- V-CA-14: the largest wide word with the longest chunk. -/
theorem test_carry_flush :
    let t := after (exec (.carry 0 0 9 true) (State.reset.setWide [2 ^ 128 - 1]))
    t.dcount = 45 ∧ t.dlen = 39 := by decide

/-! ## Steps and transactions -/

/-- R167's example: NTTI with L = 25 and P = 1 reports BAD_MODULUS (V-TR-23). -/
theorem test_priority : (after (step ((scalars 1 3 0 0).withFetchWord 32 0x53200000))).status.toWord = 0x24 := by decide

/-- Every row of the opcode table runs as the first command after reset. -/
theorem test_every_row_runs :
    [0x10000000, 0x20000000, 0x30000000, 0x40000000, 0x50000000, 0x60000000, 0x70000000, 0x80000100].all
      (fun w => isNext (step (State.reset.withFetchWord 32 w))) = true := by decide

/-- V-HI-1: PARAMS. -/
theorem test_params : State.reset.response (.read 4 0x000) = (.okay, some 0x00039713) := by decide

/-- V-HI-3: unmapped, misaligned and narrow accesses; the last digit word is mapped (V-HI-4). -/
theorem test_bus_errors :
    [0x1C, 0x38, 0x48, 0x2, 0x1000, 0x2800000, 0x3480030, 0x4000000].all
      (fun a => (target Config.defaults 4 a).isNone) = true ∧
    target Config.defaults 2 0x10 = none ∧ target Config.defaults 4 0x348002C = some (.digits 1179659) ∧
    target Config.defaults 4 0x1FFFFFC = some (.bank 7 524287) ∧
    target Config.defaults 4 0x27FFFFC = some (.wide 524287 3) := by decide

/-- V-HI-5: digits are little-endian. -/
theorem test_digit_words :
    (State.reset.setDigits [8, 8, 0, 6]).response (.read 4 0x3000000) = (.okay, some 0x06000808) := by decide

/-- V-HI-6: writing 2 to STATUS after an error leaves ERR set. -/
theorem test_status_clear :
    (((State.reset.raise .badSize).effect (.write 4 0x008 2)).status.toWord = 0x44) ∧
    (((State.reset.raise .badSize).effect (.write 4 0x008 4)).status.toWord = 0) := by decide

/-- A core of 4 banks and 2^3 elements, with its own reset moduli. -/
def smallParams : Config.Params :=
  { log2Nmax := 3, lastBank := 3, moduli := { p0 := 17, g0 := 3, p1 := 97, g1 := 5, p2 := 193, g2 := 5 } }

/-- Its map keeps bases and strides, and what is past the last element is unmapped (R51); PARAMS reports it (R21). -/
theorem test_small_core :
    target smallParams 4 0x160001C = some (.bank 3 7) ∧ target smallParams 4 0x1600020 = none ∧
    target smallParams 4 0x1800000 = none ∧ target smallParams 4 0x200007C = some (.wide 7 3) ∧
    target smallParams 4 0x2000080 = none ∧ target smallParams 4 0x3000074 = some (.digits 29) ∧
    target smallParams 4 0x3000078 = none ∧ paramsWord smallParams = 0x00039303 := by decide

/-- LOG2N = 4 is SIZE_TOO_LARGE on it (R163). -/
theorem test_small_core_too_large :
    (after (exec (.pmul 0 4 0 1) (State.resetWith smallParams))).status.toWord = 0x34 := by decide

/-- A reset of a running core loads its own reset moduli (R28, R190). -/
theorem test_small_core_reset :
    (after (step { State.resetWith smallParams with modP0 := 2, inputs := [.reset] })).modP0 = 17 := by decide

/-- A host that was answered BUSERR is at fault when it goes on (R176). -/
theorem test_host_fault :
    let s := State.reset.perform ⟨7, .read 4 0x1C⟩
    step { s with inputs := [.issue ⟨7, .read 4 0x000⟩] } = .fault (.hostBusError 7) ∧
      isNext (step { s with inputs := [.issue ⟨8, .read 4 0x000⟩] }) = true :=
  ⟨rfl, rfl⟩

/-! ## States and operands that meet the statements' hypotheses, in the order of the statements -/

/-- A next state is `.next` of the state after. -/
theorem next_after {o : Host.Outcome State Fault Refusal} (h : isNext o = true) : o = .next (after o) := by
  cases o with
  | next s => rfl
  | fault f => cases h
  | refused r => cases h

/-- P = 17, G = 3, the operands of the small examples in banks 0 and 1. -/
def pair17 : State := (small [3, 15, 1, 6]).setBank 1 [7, 9, 1, 16]

/-- The same state with a CARRY of bank 0, DIG = 1, four coefficients, pending. -/
def carrying : State := pending ((scalars 17 3 5 6).setBank 0 [18, 27, 28, 13]) 0x80400100

/-- MULMOD m0 pending, and a host that will read SR. -/
def multiplying : State := { pending (scalars 17 3 5 6) 0x10000000 with inputs := [.issue ⟨1, .read 4 0x018⟩] }

theorem witness_WellFormedCommandRoundTrips : (Instr.carry 31 0 15 true).wf = true := by decide

theorem witness_DecodedWordIsItsEncoding : decode 0x83E00F80 = .ok (.carry 31 0 15 true) := by decide

theorem witness_WordIsWellFormedIffItMatchesARow :
    MatchesRow .carry 0x80040100 ∧ ¬MatchesRow .carry 0x80040180 ∧ MatchesRow .mulmod 0x18000000 ∧
      ¬MatchesRow .mulmod 0x1C000000 ∧ ¬∃ o, MatchesRow o State.reset.cmd := by
  refine ⟨by unfold MatchesRow; decide, by unfold MatchesRow; decide, by unfold MatchesRow; decide,
    by unfold MatchesRow; decide, ?_⟩
  rintro ⟨o, h, -⟩
  cases o <;> revert h <;> decide

/-- A word is illegal or not by looking at its fields. -/
def illegalWordDecidable (w : Word) : Decidable (IllegalWord w) := by
  delta IllegalWord
  exact inferInstance

theorem witness_IllegalWordsAreTheListedOnes : IllegalWord State.reset.cmd := .inl rfl

/-- Each way to be illegal, at a boundary (R79). -/
theorem witness_IllegalWord :
    (([0x90000000, 0xF0000000, 0x10000001, 0x10000040, 0x10000080, 0x22000000, 0x40000080, 0x50020000, 0x60000080,
      0x60004000, 0x74000000, 0x70000800, 0x84000000, 0x80001000, 0x80020000, 0x1C000000, 0x6C000000, 0x80040080,
      0x80100080] : List Word).all fun w => @decide (IllegalWord w) (illegalWordDecidable w)) = true ∧
    (([0x10000000, 0x83E00F80, 0x80040000, 0x80000080, 0x70000000] : List Word).any fun w =>
      @decide (IllegalWord w) (illegalWordDecidable w)) = false := by decide

theorem witness_StepRunsTheDecodedCommand :
    (pending (scalars 17 3 5 6) 0x10000000).status.busy = true ∧ (pending (scalars 17 3 5 6) 0x10000000).wait = 0 ∧
    decode (pending (scalars 17 3 5 6) 0x10000000).cmd = .ok (.mulmod 0) ∧
    (pending State.reset 0x90000000).inputs = [] ∧
    decode (pending State.reset 0x90000000).cmd = .error (.unassignedOpcode 9) ∧
    decodeTableWord 32 0x14000000 = some (.mulmod 1) := by decide

theorem witness_ErrorsArePrecise :
    let s := scalars 17 3 34 0
    s.status.err = false ∧ exec (.invmod 0) s = .next (after (exec (.invmod 0) s)) ∧
      (after (exec (.invmod 0) s)).status.err = true :=
  ⟨rfl, next_after (by decide), by decide⟩

/-- Each condition of R167 at a boundary, with none that comes before it: the error is reported. -/
theorem witness_FirstErrorIsReported :
    ErrorHolds (.mulmod 3) State.reset .illegalCmd ∧ ErrorHolds (.carry 0 1 1 true) State.reset .illegalCmd ∧
    (ErrorHolds (.mulmod 0) (scalars 1 3 0 0) .badModulus ∧ ¬ErrorHolds (.mulmod 0) (scalars 1 3 0 0) .illegalCmd) ∧
    ErrorHolds (.pmul 0 20 0 0) State.reset .sizeTooLarge ∧
    ErrorHolds (.nttf 0 5 0) (scalars 17 3 0 0) .badSize ∧
    ErrorHolds (.carry 0 0 0 false) State.reset .badDigits ∧ ErrorHolds (.carry 0 0 10 false) State.reset .badDigits ∧
    ErrorHolds (.invmod 0) (scalars 17 3 17 0) .invUndef ∧ ErrorHolds (.ntti 0 1 0) (scalars 17 0 0 0) .invUndef := by
  refine ⟨.inl rfl, .inr ⟨0, 1, 1, rfl, by decide⟩, ⟨.inl ⟨0, rfl, by decide⟩, ?_⟩, ⟨20, rfl, by decide⟩,
    ⟨0, 5, 0, .inl rfl, by decide⟩, ⟨0, 0, 0, false, rfl, .inl rfl⟩, ⟨0, 0, 10, false, rfl, .inr (by decide)⟩,
    .inl ⟨0, rfl, by decide⟩, .inr (.inl ⟨0, 1, 0, rfl, 1, by decide, by decide, by decide⟩)⟩
  rintro (h | ⟨l, a, d, h, -⟩)
  · exact absurd h (by decide)
  · cases h

/-- A command with no error condition. -/
theorem witness_FirstErrorIsReported_none : ∀ e, ¬ErrorHolds (.mulmod 0) State.reset e := by
  intro e
  cases e <;> simp [ErrorHolds, msel?, log2n?, State.prime, State.reset, State.resetWith, Config.defaults,
    Config.resetModuli]

theorem witness_EngineKeepsOperandRegisters :
    exec (.mulmod 0) (scalars 17 3 5 6) = .next (after (exec (.mulmod 0) (scalars 17 3 5 6))) :=
  next_after (by decide)

theorem witness_SrIsWrittenByScalarCommandsOnly :
    exec (.powmod 0) (scalars 17 3 5 6) = .next (after (exec (.powmod 0) (scalars 17 3 5 6))) ∧
    (after (exec (.powmod 0) (scalars 17 3 5 6))).sr ≠ (scalars 17 3 5 6).sr ∧
    step (pending (scalars 17 3 5 6) 0x10000000) = .next (after (step (pending (scalars 17 3 5 6) 0x10000000))) ∧
    (after (step (pending (scalars 17 3 5 6) 0x10000000))).sr ≠ (pending (scalars 17 3 5 6) 0x10000000).sr :=
  ⟨next_after (by decide), by decide, next_after (by decide), by decide⟩

/-- A reset that is taken changes SR too. -/
theorem witness_SrIsWrittenByScalarCommandsOnly_reset :
    step { State.reset with sr := 5, inputs := [.reset] } =
      .next (after (step { State.reset with sr := 5, inputs := [.reset] })) ∧
    (after (step { State.reset with sr := 5, inputs := [.reset] })).sr ≠ 5 :=
  ⟨next_after (by decide), by decide⟩

/-- A CARRY that completes changes DCOUNT. -/
theorem witness_DigitsAreWrittenByCarryOnly :
    step carrying = .next (after (step carrying)) ∧ (after (step carrying)).dcount ≠ carrying.dcount :=
  ⟨next_after (by decide), by decide⟩

theorem witness_ArrayCommandsStayBelowTheirLength :
    log2n? (.nttf 0 2 0) = some 2 ∧
    exec (.nttf 0 2 0) pair17 = .next (after (exec (.nttf 0 2 0) pair17)) ∧ 2 ^ (2 : Log2N).val ≤ 4 ∧
    4 < pair17.params.nmax ∧ pair17.status.err = false ∧ SameRegisters pair17 pair17 :=
  ⟨rfl, next_after (by decide), by decide, by decide, rfl, rfl, rfl, rfl, rfl, rfl, rfl, rfl, rfl, rfl, rfl, rfl, rfl, rfl⟩

theorem witness_MemoryChangesOnlyInTheDestination :
    exec (.nttf 0 2 0) pair17 = .next (after (exec (.nttf 0 2 0) pair17)) ∧
    (after (exec (.nttf 0 2 0) pair17)).readByte 0x1000000 ≠ pair17.readByte 0x1000000 :=
  ⟨next_after (by decide), by decide⟩

theorem witness_MulmodIsTheResidueOfTheProduct : 2 ≤ 2 ∧ 2 < 2 ^ 32 := by decide

theorem witness_PowmodIsTheResidueOfThePower : 2 ≤ 2 := by decide

theorem witness_InvmodIsAnInverseForPrimes : 2 ≤ 2 ∧ 3 % 2 ≠ 0 ∧ Nat.Prime 2 := by decide

theorem witness_KernelLaws : 2 ≤ 17 ∧ Nat.Prime 17 ∧ 35 % 17 ≠ 0 := by decide

theorem witness_MulmodCompletes : (0 : ModSel) ≠ 3 ∧ 2 ≤ (scalars 2 1 5 6).prime 0 := by decide

theorem witness_PowmodCompletes : (2 : ModSel) ≠ 3 ∧ 2 ≤ State.reset.prime 2 := by decide

theorem witness_InvmodCompletes :
    let s := scalars 17 3 18 0
    (0 : ModSel) ≠ 3 ∧ 2 ≤ s.prime 0 ∧ s.sa.toNat % s.prime 0 ≠ 0 ∧ (s.prime 0).Prime :=
  ⟨by decide, by decide, by decide, by
    show Nat.Prime 17
    norm_num⟩

theorem witness_PmulCompletes :
    (1 : ModSel) ≠ 3 ∧ 2 ≤ State.reset.prime 1 ∧ FitsBank State.reset 19 ∧ HasBank State.reset 7 ∧ HasBank State.reset 0 := by
  unfold FitsBank HasBank; decide

theorem witness_BitrevReversesBits : 7 < 2 ^ 3 ∧ 2 < 3 ∧ (0 < 2 ^ 0) := by decide

theorem witness_SwapsAreTheBitReversalPermutation : [10, 11, 12, 13].length = 2 ^ 2 ∧ 3 < 2 ^ 2 := by decide

theorem witness_NttfCompletes :
    (0 : ModSel) ≠ 3 ∧ 2 ≤ pair17.prime 0 ∧ FitsBank pair17 4 ∧ HasBank pair17 7 ∧
    2 ^ (4 : Log2N).val ∣ pair17.prime 0 - 1 := by
  unfold FitsBank HasBank; decide

theorem witness_NttiCompletes :
    (0 : ModSel) ≠ 3 ∧ 2 ≤ pair17.prime 0 ∧ FitsBank pair17 4 ∧ HasBank pair17 7 ∧
    2 ^ (4 : Log2N).val ∣ pair17.prime 0 - 1 ∧
    ∀ j, 1 ≤ j → j ≤ (4 : Log2N).val → pair17.root 0 ^ ((pair17.prime 0 - 1) / 2 ^ j) % pair17.prime 0 ≠ 0 := by
  refine ⟨by decide, by decide, by unfold FitsBank; decide, by unfold HasBank; decide, by decide, ?_⟩
  intro j h1 h2
  change j ≤ 4 at h2
  interval_cases j <;> decide

theorem witness_NttfIsTheFourierTransform :
    (0 : ModSel) ≠ 3 ∧ 2 ≤ pair17.prime 0 ∧ 1 ≤ (2 : Log2N).val ∧ FitsBank pair17 2 ∧ HasBank pair17 0 ∧
    2 ^ (2 : Log2N).val ∣ pair17.prime 0 - 1 ∧
    pair17.root 0 ^ ((pair17.prime 0 - 1) / 2) % pair17.prime 0 = pair17.prime 0 - 1 := by
  unfold FitsBank HasBank; decide

theorem witness_NttiIsTheInverseFourierTransform :
    (0 : ModSel) ≠ 3 ∧ 2 ≤ pair17.prime 0 ∧ 1 ≤ (4 : Log2N).val ∧ FitsBank pair17 4 ∧ HasBank pair17 0 ∧
    2 ^ (4 : Log2N).val ∣ pair17.prime 0 - 1 ∧
    pair17.root 0 ^ ((pair17.prime 0 - 1) / 2) % pair17.prime 0 = pair17.prime 0 - 1 := by
  unfold FitsBank HasBank; decide

/-- 3 is a primitive root mod 17, so its powers have the orders R117 asks for. -/
theorem witness_GoodRoot : GoodRoot 17 3 4 ∧ orderOf ((3 : Nat) : ZMod 17) = 17 - 1 := by
  refine ⟨⟨by norm_num, ?_⟩, ?_⟩
  · exact orderOf_eq_prime_pow (p := 2) (n := 1) (by decide) (by decide)
  · exact orderOf_eq_prime_pow (p := 2) (n := 3) (by decide) (by decide)

theorem witness_InverseTransformUndoesTransform :
    (0 : ModSel) ≠ 3 ∧ FitsBank pair17 2 ∧ HasBank pair17 0 ∧ 2 ^ (2 : Log2N).val ∣ pair17.prime 0 - 1 ∧
    GoodRoot (pair17.prime 0) (pair17.root 0) (2 ^ (2 : Log2N).val) ∧
    exec (.nttf 0 2 0) pair17 = .next (after (exec (.nttf 0 2 0) pair17)) ∧ Nat.Prime 17 ∧ 0 < 4 ∧ 4 ∣ 17 - 1 :=
  ⟨by decide, by unfold FitsBank; decide, by unfold HasBank; decide, by decide, witness_GoodRoot.1, next_after (by decide), by norm_num, by decide,
    by decide⟩

/-- Two elements in each bank, zero-padded to four. -/
theorem witness_TransformsConvolve :
    let s := (small [1, 2, 0, 0]).setBank 1 [3, 4, 0, 0]
    (0 : ModSel) ≠ 3 ∧ (0 : BankIx) ≠ 1 ∧ FitsBank s 2 ∧ HasBank s 0 ∧ HasBank s 1 ∧
    2 ^ (2 : Log2N).val ∣ s.prime 0 - 1 ∧
    GoodRoot (s.prime 0) (s.root 0) (2 ^ (2 : Log2N).val) ∧ 2 + 2 ≤ 2 ^ (2 : Log2N).val ∧
    (∀ i, i < 4 → (s.bank 0 i).toNat < s.prime 0 ∧ (s.bank 1 i).toNat < s.prime 0) ∧
    (∀ i, i < 4 → 2 ≤ i → s.bank 0 i = 0 ∧ s.bank 1 i = 0) :=
  ⟨by decide, by decide, by unfold FitsBank; decide, by unfold HasBank; decide, by unfold HasBank; decide, by decide,
    witness_GoodRoot.1, by decide, by decide, by decide⟩

theorem witness_GarnerIsTheChineseRemainder :
    2 ≤ 2 ∧ Nat.Prime 3 ∧ Nat.Prime 5 ∧ Nat.Prime 7 ∧ 104 < 3 * 5 * 7 ∧ 104 % 3 = 2 % 3 ∧ 104 % 5 = 4 % 5 ∧
    104 % 7 = 6 % 7 := by decide

/-- The reset moduli, and three small primes for the clause that needs primes. -/
theorem witness_Crt3Completes :
    (let s := State.reset
     2 ≤ s.prime 0 ∧ 2 ≤ s.prime 1 ∧ 2 ≤ s.prime 2 ∧ FitsBank s 19 ∧ HasBank s 7 ∧ s.prime 0 % s.prime 1 ≠ 0 ∧
     s.prime 0 * s.prime 1 % s.prime 2 ≠ 0) ∧
    (let s := { State.reset with modP0 := 3, modP1 := 5, modP2 := 7 }
     2 ≤ s.prime 0 ∧ 2 ≤ s.prime 1 ∧ 2 ≤ s.prime 2 ∧ s.prime 0 % s.prime 1 ≠ 0 ∧
     s.prime 0 * s.prime 1 % s.prime 2 ≠ 0 ∧ (s.prime 0).Prime ∧ (s.prime 1).Prime ∧ (s.prime 2).Prime ∧
     s.prime 0 ≠ s.prime 1 ∧ s.prime 0 ≠ s.prime 2 ∧ s.prime 1 ≠ s.prime 2) := by
  unfold FitsBank HasBank; decide

/-- GoodCarry at both ends of DIG and of LOG2N, of a bank and of wide memory. -/
theorem witness_GoodCarry :
    GoodCarry State.reset 19 7 9 false ∧ GoodCarry State.reset 0 0 1 true ∧
    GoodCarry (State.resetWith smallParams) 3 3 9 false := by
  unfold GoodCarry FitsBank HasBank; decide

theorem witness_CarryPrintsTheExactSum : GoodCarry State.reset 19 7 9 false := witness_GoodCarry.1

theorem witness_DlenCountsSignificantDigits : GoodCarry State.reset 0 0 1 true := witness_GoodCarry.2.1

theorem witness_DcountCountsWrittenDigits : GoodCarry State.reset 19 7 9 false := witness_GoodCarry.1

theorem witness_CarryFitsDigitMemory :
    GoodCarry State.reset 0 0 1 true ∧ (State.reset.setWide [2 ^ 128 - 1]).wide 0 = BitVec.ofNat 128 (2 ^ 128 - 1) :=
  ⟨witness_GoodCarry.2.1, by decide⟩

/-- Both sides of each boundary of the map (R51): by `Reachable` for the default parameters, and by `ReachableIn` at the
last and the first past it. -/
theorem witness_BusErrorsAreTheUnmappedAccesses :
    (∀ a ∈ [0x000, 0x044, 0x1000000, 0x27FFFFC, 0x3000000, 0x348002C], (4 : Nat) = 4 ∧ Reachable a) ∧
    (∀ a ∈ [0x001, 0x01C, 0x048, 0xFFFFFC, 0x2800000, 0x2FFFFFC, 0x3480030, 0x4000000],
      ¬((4 : Nat) = 4 ∧ Reachable a)) ∧
    ¬((2 : Nat) = 4 ∧ Reachable 0) := by
  unfold Reachable; decide

theorem witness_BusErrorsAreTheUnmappedAccesses_params :
    ReachableIn State.reset.params 0x1FFFFFC ∧ ReachableIn smallParams 0x160001C ∧ ReachableIn smallParams 0x3000074 ∧
    ¬((2 : Nat) = 4 ∧ ReachableIn State.reset.params 0) :=
  ⟨⟨by decide, .inr (.inl ⟨7, 524287, by decide, by decide, rfl⟩)⟩,
    ⟨by decide, .inr (.inl ⟨3, 7, by decide, by decide, rfl⟩)⟩,
    ⟨by decide, .inr (.inr (.inr ⟨29, by decide, rfl⟩))⟩, fun h => absurd h.1 (by decide)⟩

theorem witness_BankAccessReadsAndWritesTheElement :
    HasBank State.reset 7 ∧ 524287 < State.reset.params.nmax ∧ 0x1000003 < 0x1000000 + 0 * 0x200000 + 4 * 1 := by
  unfold HasBank; decide

theorem witness_WideAccessIsLittleEndianByWord :
    524287 < State.reset.params.nmax ∧ 3 < 4 ∧ 0 < 4 ∧ 0 ≠ 3 ∧ 0 ≠ 524287 ∧
    0x2000003 < 0x2000000 + 16 * 0 + 4 * 1 := by decide

theorem witness_DigitAccessIsReadOnlyLittleEndian : 1179659 < State.reset.params.dcap / 4 := by decide

theorem witness_ReadOnlyRegistersIgnoreWrites :
    (0x040 = 0x000 ∨ 0x040 = 0x004 ∨ 0x040 = 0x018 ∨ 0x040 = 0x040) ∧
    (0xFFFFFFF9 : Word).getLsbD 1 = false ∧ (0xFFFFFFF9 : Word).getLsbD 2 = false := by decide

theorem witness_ReadWriteRegistersReadBack :
    Reg.modG2 ∈ [Reg.sa, Reg.sb, Reg.modP0, Reg.modG0, Reg.modP1, Reg.modG1, Reg.modP2, Reg.modG2] ∧
    Reg.sr ≠ Reg.modG2 ∧ 0x044 ∈ regOffsets := by decide

theorem witness_OnlyCmdAndStatusWritesHaveSideEffects : (0x010 : Nat) ≠ 0x00C ∧ (0x010 : Nat) ≠ 0x008 ∧
    0x010 ∈ regOffsets ∧ 0x1000000 ∉ regOffsets ∧ Reg.sb.offset ≠ 0x010 ∧ 0x014 ≥ 0x010 + 4 := by decide

theorem witness_StatusWriteClearsByOnes :
    (2 : Word).getLsbD 1 = true ∧ (4 : Word).getLsbD 1 = false ∧ (4 : Word).getLsbD 2 = true ∧
    (2 : Word).getLsbD 2 = false := by decide

theorem witness_CmdWriteAcceptsTheCommand : IllegalWord 0 := .inl rfl

theorem witness_InterruptFollowsCompletion :
    exec (.mulmod 0) { scalars 17 3 5 6 with irqEn := true } =
      .next (after (exec (.mulmod 0) { scalars 17 3 5 6 with irqEn := true })) :=
  next_after (by decide)

theorem witness_ParamsIsConstant :
    let s := { multiplying with wait := 1, inputs := [.issue ⟨1, .read 4 0x000⟩] }
    s.status.busy = true ∧ s.wait = 0 + 1 ∧ s.inputs = .issue ⟨1, .read 4 0x000⟩ :: [] ∧ s.isWaiting 1 = false ∧
    s.hostAtFault 1 = false ∧ s.params = Config.defaults := by decide

theorem witness_HostPseudoOperationsLoadTheirTargets : HasBank State.reset 7 ∧
    ([1, 2, 3] : List Word).length ≤ State.reset.params.nmax ∧ 2 < 3 := by
  unfold HasBank; decide

/-- A read of SR is held, a write of STATUS and a BUSERR are not. -/
theorem witness_BusyCoreHoldsTransactions :
    let s := { multiplying with wait := 1 }
    s.status.busy = true ∧ s.wait = 0 + 1 ∧ s.inputs = .issue ⟨1, .read 4 0x018⟩ :: [] ∧ s.isWaiting 1 = false ∧
    s.hostAtFault 1 = false ∧ (Tx.read 4 0x018).isHeld s.params = true ∧
    (Tx.write 4 0x008 6).isHeld s.params = false ∧ (Tx.read 4 0x01C).isHeld s.params = false := by decide

/-- A held write of a bank behind a running MULMOD, and an idle core with an input. -/
theorem witness_HeldTransactionsArePerformedNext :
    let s := { pending (scalars 17 3 5 6) 0x10000000 with held := [⟨1, .write 4 0x1000000 9⟩] }
    let t := { State.reset with inputs := [.issue ⟨1, .read 4 0x018⟩] }
    s.status.busy = true ∧ (s.wait = 0 ∨ s.inputs = []) ∧ s.held = ⟨1, .write 4 0x1000000 9⟩ :: [] ∧
    decode s.cmd = .ok (.mulmod 0) ∧ exec (.mulmod 0) s = .next (after (exec (.mulmod 0) s)) ∧
    (after (exec (.mulmod 0) s)).status.busy = false ∧
    (after (exec (.mulmod 0) s)).held = ⟨1, .write 4 0x1000000 9⟩ :: [] ∧
    t.status.busy = false ∧ t.held = [] ∧ t.inputs = .issue ⟨1, .read 4 0x018⟩ :: [] ∧ t.hostAtFault 1 = false ∧
    State.reset.status.busy = false ∧ State.reset.held = [] ∧ State.reset.inputs = [] :=
  ⟨rfl, .inl rfl, rfl, by decide, next_after (by decide), by decide, by decide, rfl, rfl, rfl, rfl, rfl, rfl, rfl⟩

/-- The latency lets the read in before the completion, so that it is held. -/
theorem witness_HeldReadSeesTheResult :
    let s := { multiplying with wait := 1 }
    s.status.busy = true ∧ s.held = [] ∧ s.inputs = [.issue ⟨1, .read 4 0x018⟩] ∧ s.hostAtFault 1 = false ∧
    decode s.cmd = .ok (.mulmod 0) ∧ exec (.mulmod 0) s = .next (after (exec (.mulmod 0) s)) ∧
    (after (step s)).held = [⟨1, .read 4 0x018⟩] :=
  ⟨rfl, rfl, rfl, rfl, by decide, next_after (by decide), by decide⟩

theorem witness_HeldCommandIsAcceptedNext :
    let s := { pending (scalars 17 3 5 6) 0x10000000 with held := [⟨1, .write 4 0x00C 0x20000000⟩] }
    s.status.busy = true ∧ s.wait = 0 ∧ s.held = [⟨1, .write 4 0x00C 0x20000000⟩] ∧ decode s.cmd = .ok (.mulmod 0) ∧
    exec (.mulmod 0) s = .next (after (exec (.mulmod 0) s)) ∧
    ∃ u, Host.Core.run Sys2Proof.core 2 s = .next u :=
  ⟨rfl, rfl, rfl, by decide, next_after (by decide), _, rfl⟩

theorem witness_PendingCommandCompletes : multiplying.status.busy = true := rfl

theorem witness_ResetPutsRegistersToTheirResetValues :
    (let s := { multiplying with wait := 1, inputs := [.reset] }
     s.inputs = .reset :: [] ∧ (s.status.busy = true ∧ 0 < s.wait)) ∧
    (let s := { scalars 17 3 5 6 with inputs := [.reset] }
     s.inputs = .reset :: [] ∧ (s.status.busy = false ∧ s.held = []) ∧ s.params = Config.defaults) := by decide

theorem witness_ParametersAreFixed : step carrying = .next (after (step carrying)) := next_after (by decide)

theorem witness_OnlyHostBusErrorsStopTheMachine :
    let s := { State.reset.perform ⟨7, .read 4 0x1C⟩ with inputs := [.issue ⟨7, .read 4 0x000⟩] }
    s.status.busy = false ∧ s.held = [] ∧ s.inputs = .issue ⟨7, .read 4 0x000⟩ :: [] ∧
    (∃ a ∈ s.answers, a.host = 7 ∧ a.response = .busErr) ∧ step s = .fault (.hostBusError 7) ∧
    (State.reset.response (.write 4 0x1C 0)).1 = .busErr :=
  ⟨rfl, rfl, rfl, ⟨_, .head _, rfl, rfl⟩, rfl, rfl⟩

/-- A pending command with written memory meets the invariant, and the machine takes a step. -/
theorem witness_StepKeepsTheInvariant : Inv carrying ∧ step carrying = .next (after (step carrying)) := by
  refine ⟨⟨by decide, ?_, ?_, by decide, by decide, by decide, by decide, by decide, by decide, by decide, by decide⟩,
    next_after (by decide)⟩
  · unfold inWordMemory inDigitMemory; decide
  · unfold inDigitMemory; decide

theorem witness_StatusWriteWhileBusyHasNoEffect : Inv carrying ∧ carrying.status.busy = true :=
  ⟨witness_StepKeepsTheInvariant.1, rfl⟩

end Sys2Proof.Tests
end

section
/-! The parameters of R8: no step changes them, and the state after reset with any of them meets the invariant. -/

namespace Sys2Proof.Machine

/-- Everything the engine can do at the completing step (R166, R168): report an error and nothing else, or write what a
well-formed word's command writes and report success. -/
theorem complete_cases (s : State) :
    (∃ e, complete s = .next (s.raise e)) ∨
      ∃ i, decode s.cmd = .ok i ∧ firstError (checksOf i s) = none ∧ complete s = .next (writeOf i s).succeed := by
  cases hd : decode s.cmd with
  | error d => exact .inl ⟨.illegalCmd, complete_error hd⟩
  | ok i =>
    rw [complete_ok hd]
    obtain ⟨e, -, h⟩ | ⟨hc, h⟩ := exec_cases i s
    · exact .inl ⟨e, h⟩
    · exact .inr ⟨i, rfl, hc, h⟩

/-! ## What keeps the parameters -/

@[simp] theorem writeOf_params (i : Instr) (s : State) : (writeOf i s).params = s.params := by
  rw [writeOf_frame]

@[simp] theorem State.effect_params (s : State) (tx : Tx) : (s.effect tx).params = s.params := by
  obtain ⟨-, -, -, -, h⟩ := s.effect_keeps tx
  exact h

@[simp] theorem State.perform_params (s : State) (q : Issue) : (s.perform q).params = s.params := s.effect_params q.tx

theorem complete_params {s t : State} (h : complete s = .next t) : t.params = s.params := by
  obtain ⟨e, hs⟩ | ⟨i, -, -, hs⟩ := complete_cases s <;> cases hs.symm.trans h <;> simp

/-- Each next state of `step_cases` has the parameters of the state before, a reset's among them (R28, log 7); the host's
fault has no next state. -/
theorem step_params {s t : State} (h : step s = .next t) : t.params = s.params := by
  obtain ⟨-, hs⟩ | ⟨rest, -, hs⟩ | ⟨q, rest, k, -, -, -, -, -, -, hs⟩ | ⟨q, rest, k, -, -, -, -, -, -, hs⟩ |
    ⟨q, rest, -, -, hs⟩ | ⟨q, rest, -, -, -, -, hs⟩ | ⟨q, rest, -, -, -, -, hs⟩ | ⟨-, -, -, hs⟩ := step_cases s
  case inl => exact complete_params (hs.symm.trans h)
  all_goals cases hs.symm.trans h <;> simp

/-! ## The state after reset -/

/-- Nothing is written or held after reset, and every field of STATUS, DLEN and DCOUNT is 0 (R38, R39). -/
theorem inv_resetWith (p : Config.Params) : Inv (State.resetWith p) where
  memCanonical := List.Pairwise.nil
  memMapped _ hc := nomatch hc
  digitsDecimal _ hc := nomatch hc
  errCodeIffErr := by simp [State.resetWith, Status.reset]
  errCodeNamed := Nat.zero_le 6
  notDoneAndErr := by simp [State.resetWith, Status.reset]
  busyClean _ := ⟨rfl, rfl⟩
  digitCounts := ⟨Nat.le_refl 0, Nat.zero_le _⟩
  digitCountsTogether := Iff.rfl
  oneHeldPerHost := List.nodup_nil
  heldAreHeld _ hq := nomatch hq

/-- Settles O59: the reset state by its definition and `inv_resetWith`, the step by `step_params`, R8's values by
evaluation. -/
theorem parametersAreFixed : Obligations.ParametersAreFixed := by
  refine ⟨fun p => ⟨rfl, inv_resetWith p, rfl, rfl, rfl, rfl, rfl, rfl⟩, fun s t => step_params, ?_⟩
  decide

end Sys2Proof.Machine
end

section
/-! How many digits a CARRY writes. The running carry stays at or below (2^128 - 1) / 9 (R150), so that the flush adds at
most 46 digits to the DIG of each coefficient and they all fit digit memory (R151). -/

namespace Sys2Proof.Machine

/-- The bound on the running carry (R150). -/
def carryBound : Nat := (2 ^ 128 - 1) / 9

/-- The base is at least 10, so one step of the walk keeps the carry at or below its bound (R150). -/
theorem carry_div_le {dig v c : Nat} (hd : 1 ≤ dig) (hv : v < 2 ^ 128) (hc : c ≤ carryBound) :
    (v + c) / 10 ^ dig ≤ carryBound := by
  have h10 : 10 ≤ 10 ^ dig := Nat.le_self_pow (by omega) 10
  calc (v + c) / 10 ^ dig ≤ (v + c) / 10 := Nat.div_le_div_left h10 (by decide)
    _ ≤ carryBound := by unfold carryBound at *; omega

@[simp] theorem flushDigits_zero_carry (dig fuel : Nat) : flushDigits dig fuel 0 = [] := by
  cases fuel <;> simp [flushDigits]

/-- A carry of at most `m` decimal digits is flushed in at most `m + dig - 1` digits: every chunk but the last takes `dig`
of the `m` (R151). -/
theorem length_flushDigits_lt {dig fuel c m : Nat} (hd : 1 ≤ dig) (hc : c < 10 ^ m) :
    (flushDigits dig fuel c).length < m + dig := by
  induction fuel generalizing c m with
  | zero => simp only [flushDigits, List.length_nil]; omega
  | succ fuel ih =>
    by_cases h0 : c = 0
    · rw [h0, flushDigits_zero_carry, List.length_nil]; omega
    · simp only [flushDigits, if_neg h0, List.length_append, length_chunkDigits]
      by_cases hm : dig ≤ m
      · have hrest : c / 10 ^ dig < 10 ^ (m - dig) :=
          Nat.div_lt_of_lt_mul (by rwa [← pow_add, Nat.add_sub_cancel' hm])
        have := ih hrest
        omega
      · have hlast : c / 10 ^ dig = 0 :=
          Nat.div_eq_of_lt (hc.trans_le (Nat.pow_le_pow_right (by decide) (by omega)))
        have hpos : m ≠ 0 := by
          rintro rfl
          exact h0 (Nat.lt_one_iff.mp hc)
        rw [hlast, flushDigits_zero_carry, List.length_nil]
        omega

/-- The walk writes `dig` digits for each coefficient, and the flush at most 46 more (R145, R151). -/
theorem length_carryDigits_bounds {dig c : Nat} {src : List Nat} (hd : 1 ≤ dig ∧ dig ≤ 9)
    (hsrc : ∀ v ∈ src, v < 2 ^ 128) (hc : c ≤ carryBound) :
    dig * src.length ≤ (carryDigits dig src c).length ∧
      (carryDigits dig src c).length ≤ dig * src.length + 46 := by
  induction src generalizing c with
  | nil =>
    have hflush : (flushDigits dig (Nat.log2 c + 1) c).length < 38 + dig :=
      length_flushDigits_lt hd.1 (hc.trans_lt (by decide))
    simp only [carryDigits, List.length_nil]
    omega
  | cons v vs ih =>
    have hv : v < 2 ^ 128 := hsrc v List.mem_cons_self
    obtain ⟨hlo, hhi⟩ := ih (fun x hx => hsrc x (List.mem_cons_of_mem v hx)) (carry_div_le hd.1 hv hc)
    simp only [carryDigits, List.length_append, length_chunkDigits, List.length_cons, Nat.mul_succ]
    omega

@[simp] theorem State.length_carrySource (s : State) (l : Log2N) (ba : BankIx) (w : Bool) :
    (s.carrySource l ba w).length = 2 ^ l.val := by
  cases w <;> simp [State.carrySource, arrayLen]

theorem State.carrySource_lt {s : State} {l : Log2N} {ba : BankIx} {w : Bool} {v : Nat}
    (h : v ∈ s.carrySource l ba w) : v < 2 ^ 128 := by
  cases w with
  | false =>
    obtain ⟨i, -, rfl⟩ := List.mem_map.mp h
    exact (s.bank ba i).isLt.trans (by decide)
  | true =>
    obtain ⟨i, -, rfl⟩ := List.mem_map.mp h
    exact (s.wide i).isLt

/-- A CARRY with no error condition writes at least one digit and no more than digit memory holds (R151). -/
theorem length_carryDigits_le_dcap (s : State) {l : Log2N} (ba : BankIx) {dig : DigitCount} (w : Bool)
    (hl : l.val ≤ s.params.log2Nmax.val) (hd : 1 ≤ dig.val ∧ dig.val ≤ 9) :
    0 < (carryDigits dig.val (s.carrySource l ba w) 0).length ∧
      (carryDigits dig.val (s.carrySource l ba w) 0).length ≤ s.params.dcap := by
  obtain ⟨hlo, hhi⟩ := length_carryDigits_bounds (src := s.carrySource l ba w) (c := 0) hd
    (fun v hv => State.carrySource_lt hv) (Nat.zero_le _)
  rw [State.length_carrySource] at hlo hhi
  have hn : 0 < dig.val * 2 ^ l.val := Nat.mul_pos hd.1 (Nat.two_pow_pos _)
  have hmul : dig.val * 2 ^ l.val ≤ 9 * s.params.nmax :=
    Nat.mul_le_mul hd.2 (Nat.pow_le_pow_right (by decide) hl)
  unfold Config.Params.dcap
  omega

end Sys2Proof.Machine
end

section
/-! Where a command stores, said once for all eight: the elements, their width and the offset of the first. What memory
holds after a command follows for every command at once. -/

namespace Sys2Proof.Machine

open Sys2Proof.Spec

/-- The bytes of an element of a command's destination (R30, R32, R33); a scalar command stores none. -/
def storedWidth : Instr → Nat
  | .mulmod _ => 4
  | .powmod _ => 4
  | .invmod _ => 4
  | .nttf _ _ _ => 4
  | .ntti _ _ _ => 4
  | .pmul _ _ _ _ => 4
  | .crt3 _ _ _ _ => 16
  | .carry _ _ _ _ => 1

/-- The offset of the first element of a command's destination (R51); a scalar command stores nothing, at
the first bank's. -/
def storedBase : Instr → Nat
  | .mulmod _ => bankAddr 0 0
  | .powmod _ => bankAddr 0 0
  | .invmod _ => bankAddr 0 0
  | .nttf _ _ ba => bankAddr ba 0
  | .ntti _ _ ba => bankAddr ba 0
  | .pmul _ _ ba _ => bankAddr ba 0
  | .crt3 _ _ _ _ => wideAddr 0
  | .carry _ _ _ _ => digitAddr 0

/-- The elements a command stores. -/
def storedElems (i : Instr) (s : State) : List Nat :=
  match i with
  | .mulmod _ => []
  | .powmod _ => []
  | .invmod _ => []
  | .nttf k l ba => forwardNtt (s.prime k) (s.root k) l.val (s.bankPrefix ba (arrayLen l))
  | .ntti k l ba => inverseNtt (s.prime k) (s.root k) l.val (s.bankPrefix ba (arrayLen l))
  | .pmul k l ba bb => pointwise (s.prime k) (s.bankPrefix ba (arrayLen l)) (s.bankPrefix bb (arrayLen l))
  | .crt3 l ba bb bc =>
    garnerAll (s.prime 0) (s.prime 1) (s.prime 2)
      (s.bankPrefix ba (arrayLen l)) (s.bankPrefix bb (arrayLen l)) (s.bankPrefix bc (arrayLen l))
  | .carry l ba dig w => carryDigits dig.val (s.carrySource l ba w) 0

/-- The first offset past what a command stores. -/
def storedEnd (i : Instr) (s : State) : Nat := storedBase i + storedWidth i * (storedElems i s).length

theorem writeOf_mem (i : Instr) (s : State) :
    (writeOf i s).mem = Memory.storeElems (storedWidth i) (storedBase i) (storedElems i s) s.mem := by
  cases i <;> rfl

/-! ## The fields a write phase leaves alone -/

@[simp] theorem writeOf_status (i : Instr) (s : State) : (writeOf i s).status = s.status := by rw [writeOf_frame]

@[simp] theorem writeOf_irqEn (i : Instr) (s : State) : (writeOf i s).irqEn = s.irqEn := by rw [writeOf_frame]

@[simp] theorem writeOf_held (i : Instr) (s : State) : (writeOf i s).held = s.held := by rw [writeOf_frame]

@[simp] theorem writeOf_epoch (i : Instr) (s : State) : (writeOf i s).epoch = s.epoch := by rw [writeOf_frame]

/-- Only CARRY writes DLEN and DCOUNT (R29). -/
theorem writeOf_counts {i : Instr} (s : State) (hi : i.opcode ≠ .carry) :
    (writeOf i s).dlen = s.dlen ∧ (writeOf i s).dcount = s.dcount := by
  cases i
  case carry => exact absurd rfl hi
  all_goals exact ⟨rfl, rfl⟩

/-! ## What the check phase lets through -/

/-- A command with no error condition has a length the core takes (R163). -/
theorem log2n_le_of_checks {i : Instr} {s : State} {l : Log2N} (h : firstError (checksOf i s) = none)
    (hl : log2n? i = some l) : l.val ≤ s.params.log2Nmax.val := by
  rw [firstError_eq_none] at h
  have hmem : (tooLarge s.params l, ErrorCode.sizeTooLarge) ∈ checksOf i s := by
    cases i <;> cases hl <;> simp [checksOf]
  exact (tooLarge_eq_false _ _).mp (h _ hmem)

/-- A command with no error condition has a modulus of at least 2 (R162). -/
theorem two_le_prime_of_checks {i : Instr} {s : State} {k : ModSel} (h : firstError (checksOf i s) = none)
    (hk : msel? i = some k) : 2 ≤ s.prime k := by
  rw [firstError_eq_none] at h
  have hmem : (badModulus (s.prime k), ErrorCode.badModulus) ∈ checksOf i s := by
    cases i <;> cases hk <;> simp [checksOf]
  exact (badModulus_eq_false _).mp (h _ hmem)

/-- A CARRY with no error condition has a DIG of 1 to 9 (R170). -/
theorem dig_bounds_of_checks {l : Log2N} {ba : BankIx} {dig : DigitCount} {w : Bool} {s : State}
    (h : firstError (checksOf (.carry l ba dig w) s) = none) : 1 ≤ dig.val ∧ dig.val ≤ 9 := by
  rw [firstError_eq_none] at h
  exact (badDigitCount_eq_false _).mp (h (badDigitCount dig, .badDigits) (by simp [checksOf]))

/-! ## How far the stored elements reach -/

/-- An array command other than CARRY stores n elements (R75). -/
theorem length_storedElems {i : Instr} {l : Log2N} (s : State) (hl : log2n? i = some l) (hi : i.opcode ≠ .carry) :
    (storedElems i s).length = 2 ^ l.val := by
  cases i <;> cases hl
  case nttf => simp [storedElems, arrayLen]
  case ntti => simp [storedElems, arrayLen]
  case pmul => simp [storedElems, arrayLen]
  case crt3 => rw [storedElems, length_garnerAll] <;> simp [arrayLen]
  case carry => exact absurd rfl hi

/-- A command without a length stores nothing. -/
theorem storedElems_of_scalar {i : Instr} (s : State) (hl : log2n? i = none) : storedElems i s = [] := by
  cases i
  case mulmod | powmod | invmod => rfl
  all_goals cases hl

/-- An array command with no error condition has no more elements than a bank, and no bank has more than 2^19 (R51). -/
theorem two_pow_log2n_le {i : Instr} {s : State} {l : Log2N} (h : firstError (checksOf i s) = none)
    (hl : log2n? i = some l) : 2 ^ l.val ≤ s.params.nmax :=
  Nat.pow_le_pow_right (by decide) (log2n_le_of_checks h hl)

theorem nmax_le (p : Config.Params) : p.nmax ≤ 524288 :=
  Nat.pow_le_pow_right (n := 2) (by decide) (Nat.le_of_lt_succ p.log2Nmax.isLt)

/-! ## Where the stored elements end: at index n of the destination array (R31) -/

theorem storedEnd_of_scalar {i : Instr} (s : State) (hl : log2n? i = none) : storedEnd i s = storedBase i := by
  rw [storedEnd, storedElems_of_scalar s hl, List.length_nil, Nat.mul_zero, Nat.add_zero]

theorem storedEnd_nttf (k : ModSel) (l : Log2N) (ba : BankIx) (s : State) :
    storedEnd (.nttf k l ba) s = bankAddr ba (2 ^ l.val) := by
  rw [storedEnd, length_storedElems s rfl (by simp [Instr.opcode]), bankAddr_eq ba (2 ^ l.val)]
  rfl

theorem storedEnd_ntti (k : ModSel) (l : Log2N) (ba : BankIx) (s : State) :
    storedEnd (.ntti k l ba) s = bankAddr ba (2 ^ l.val) := by
  rw [storedEnd, length_storedElems s rfl (by simp [Instr.opcode]), bankAddr_eq ba (2 ^ l.val)]
  rfl

theorem storedEnd_pmul (k : ModSel) (l : Log2N) (ba bb : BankIx) (s : State) :
    storedEnd (.pmul k l ba bb) s = bankAddr ba (2 ^ l.val) := by
  rw [storedEnd, length_storedElems s rfl (by simp [Instr.opcode]), bankAddr_eq ba (2 ^ l.val)]
  rfl

theorem storedEnd_crt3 (l : Log2N) (ba bb bc : BankIx) (s : State) :
    storedEnd (.crt3 l ba bb bc) s = wideAddr (2 ^ l.val) := by
  rw [storedEnd, length_storedElems s rfl (by simp [Instr.opcode]), wideAddr_eq (2 ^ l.val)]
  rfl

/-- A CARRY with no error condition stores at least one digit and no more than digit memory holds (R151). -/
theorem length_storedElems_carry {l : Log2N} {ba : BankIx} {dig : DigitCount} {w : Bool} {s : State}
    (h : firstError (checksOf (.carry l ba dig w) s) = none) :
    0 < (storedElems (.carry l ba dig w) s).length ∧ (storedElems (.carry l ba dig w) s).length ≤ s.params.dcap :=
  length_carryDigits_le_dcap s ba w (log2n_le_of_checks h rfl) (dig_bounds_of_checks h)

theorem dcap_lt (p : Config.Params) : p.dcap < 2 ^ 32 := by
  have := nmax_le p
  unfold Config.Params.dcap
  omega

/-- DCOUNT reports the stored digits, which are too few to wrap (R145, R151). -/
theorem dcount_writeOf_carry {l : Log2N} {ba : BankIx} {dig : DigitCount} {w : Bool} {s : State}
    (h : firstError (checksOf (.carry l ba dig w) s) = none) :
    (writeOf (.carry l ba dig w) s).dcount.toNat = (storedElems (.carry l ba dig w) s).length := by
  obtain ⟨-, hle⟩ := length_storedElems_carry h
  exact Nat.mod_eq_of_lt (hle.trans_lt (dcap_lt s.params))

theorem storedEnd_carry {l : Log2N} {ba : BankIx} {dig : DigitCount} {w : Bool} {s : State}
    (h : firstError (checksOf (.carry l ba dig w) s) = none) :
    storedEnd (.carry l ba dig w) s = digitAddr (writeOf (.carry l ba dig w) s).dcount.toNat := by
  rw [storedEnd, dcount_writeOf_carry h, digitAddr_eq (List.length _)]
  rfl

theorem bank_in_wordMemory (p : Config.Params) (b : BankIx) {n : Nat} (hn : n ≤ p.nmax) :
    Config.bankBase ≤ bankAddr b 0 ∧ bankAddr b n ≤ Config.wmemBase := by
  have hmax := nmax_le p
  have hb := b.isLt
  simp only [bankAddr, Config.bankBase, Config.bankStride, Config.wmemBase]
  omega

theorem wide_in_wordMemory (p : Config.Params) {n : Nat} (hn : n ≤ p.nmax) : wideAddr n ≤ Config.wmemEnd := by
  have hmax := nmax_le p
  simp only [wideAddr, Config.wmemBase, Config.wmemEnd]
  omega

/-- No command but CARRY reaches past the banks and wide memory (R51). -/
theorem stored_in_wordMemory {i : Instr} {s : State} (h : firstError (checksOf i s) = none) (hi : i.opcode ≠ .carry) :
    Config.bankBase ≤ storedBase i ∧ storedEnd i s ≤ Config.wmemEnd := by
  have hregions : Config.bankBase ≤ Config.wmemBase ∧ Config.wmemBase ≤ Config.wmemEnd := by decide
  cases i
  case mulmod k | powmod k | invmod k =>
    rw [storedEnd_of_scalar s rfl]
    exact (by decide : Config.bankBase ≤ bankAddr 0 0 ∧ bankAddr 0 0 ≤ Config.wmemEnd)
  case nttf k l ba =>
    rw [storedEnd_nttf]
    exact (bank_in_wordMemory s.params ba (two_pow_log2n_le h rfl)).imp_right (·.trans hregions.2)
  case ntti k l ba =>
    rw [storedEnd_ntti]
    exact (bank_in_wordMemory s.params ba (two_pow_log2n_le h rfl)).imp_right (·.trans hregions.2)
  case pmul k l ba bb =>
    rw [storedEnd_pmul]
    exact (bank_in_wordMemory s.params ba (two_pow_log2n_le h rfl)).imp_right (·.trans hregions.2)
  case crt3 l ba bb bc =>
    rw [storedEnd_crt3]
    exact ⟨hregions.1, wide_in_wordMemory s.params (two_pow_log2n_le h rfl)⟩
  case carry => exact absurd rfl hi

/-! ## Bytes after a command -/

/-- A byte after a write phase: the stored one inside the destination, the old one outside it. -/
theorem readByte_writeOf (i : Instr) (s : State) (x : Nat) :
    (writeOf i s).readByte x =
      if storedBase i ≤ x ∧ x < storedEnd i s then
        BitVec.ofNat 8 ((storedElems i s).getD ((x - storedBase i) / storedWidth i) 0 /
          256 ^ ((x - storedBase i) % storedWidth i))
      else s.readByte x := by
  rw [State.readByte, writeOf_mem, writeOf_epoch, Memory.lookup_storeElems, storedEnd]
  split <;> rfl

theorem readByte_writeOf_outside {i : Instr} {s : State} {x : Nat} (h : x < storedBase i ∨ storedEnd i s ≤ x) :
    (writeOf i s).readByte x = s.readByte x := by
  rw [readByte_writeOf, if_neg (by omega)]

/-- A byte that a command changes lies in its destination, and the command had no error condition. -/
theorem stored_of_changed {i : Instr} {s t : State} {a : Nat} (h : exec i s = .next t)
    (hne : t.readByte a ≠ s.readByte a) :
    firstError (checksOf i s) = none ∧ t = (writeOf i s).succeed ∧ storedBase i ≤ a ∧ a < storedEnd i s := by
  obtain ⟨e, -, hs⟩ | ⟨hc, hs⟩ := exec_cases i s
  · cases hs.symm.trans h
    exact absurd rfl hne
  · cases hs.symm.trans h
    have hin : ¬(a < storedBase i ∨ storedEnd i s ≤ a) := fun hout => hne (readByte_writeOf_outside hout)
    exact ⟨hc, rfl, by omega, by omega⟩

/-- Settles O14: a changed byte is a stored one, and the stored elements end where each form's destination does. -/
theorem memoryChangesOnlyInTheDestination : Obligations.MemoryChangesOnlyInTheDestination := by
  intro i s t a h hne
  obtain ⟨hc, rfl, hlo, hhi⟩ := stored_of_changed h hne
  cases i with
  | mulmod k => exact absurd hhi (by rw [storedEnd_of_scalar s rfl]; omega)
  | powmod k => exact absurd hhi (by rw [storedEnd_of_scalar s rfl]; omega)
  | invmod k => exact absurd hhi (by rw [storedEnd_of_scalar s rfl]; omega)
  | nttf k l ba => exact ⟨hlo, storedEnd_nttf k l ba s ▸ hhi⟩
  | ntti k l ba => exact ⟨hlo, storedEnd_ntti k l ba s ▸ hhi⟩
  | pmul k l ba bb => exact ⟨hlo, storedEnd_pmul k l ba bb s ▸ hhi⟩
  | crt3 l ba bb bc => exact ⟨hlo, storedEnd_crt3 l ba bb bc s ▸ hhi⟩
  | carry l ba dig w => exact ⟨hlo, storedEnd_carry hc ▸ hhi⟩

/-- The engine's frame over all commands, error or success. -/
theorem exec_frame {i : Instr} {s t : State} (h : exec i s = .next t) :
    t = { s with status := t.status, sr := t.sr, dlen := t.dlen, dcount := t.dcount, mem := t.mem } := by
  obtain ⟨e, -, hs⟩ | ⟨-, hs⟩ := exec_cases i s
  · cases hs.symm.trans h
    rfl
  · cases hs.symm.trans h
    rw [State.succeed, writeOf_frame]

/-- Settles O10, by `exec_frame`. -/
theorem engineKeepsOperandRegisters : Obligations.EngineKeepsOperandRegisters := fun _ _ _ => exec_frame

end Sys2Proof.Machine
end

section
/-! What a transaction can do to the core, said once: nothing, one register write, or one word of a bank or of wide
memory. -/

namespace Sys2Proof.Machine

/-- Everything an offset can reach, with the bounds of R51 on a word of a bank or of wide memory. -/
theorem mapped_cases {p : Config.Params} {a : Nat} {t : Target} (h : mapped p a = some t) :
    (∃ r, t = .reg r) ∨ (∃ b i, b < p.nbanks ∧ i < p.nmax ∧ t = .bank b i) ∨
      (∃ i j, i < p.nmax ∧ j < 4 ∧ t = .wide i j) ∨ ∃ q, t = .digits q := by
  simp only [mapped] at h
  split_ifs at h with hreg _ hbank hin _ hwide hin
  · obtain ⟨r, -, rfl⟩ := Option.map_eq_some_iff.mp h
    exact .inl ⟨r, rfl⟩
  · exact .inr (.inl ⟨_, _, hin.1, hin.2, (Option.some.inj h).symm⟩)
  · exact .inr (.inr (.inl ⟨_, _, hin, by omega, (Option.some.inj h).symm⟩))
  · exact .inr (.inr (.inr ⟨_, (Option.some.inj h).symm⟩))

theorem mapped_of_target {p : Config.Params} {w a : Nat} {t : Target} (h : target p w a = some t) :
    mapped p a = some t := by
  unfold target at h
  split at h
  · exact h
  · cases h

theorem bankOffset_in_wordMemory {p : Config.Params} {b i : Nat} (hb : b < p.nbanks) (hi : i < p.nmax) :
    Config.bankBase ≤ Target.offset (.bank b i) ∧ Target.offset (.bank b i) + 4 ≤ Config.wmemEnd := by
  have hmax := nmax_le p
  have hlast := p.lastBank.isLt
  simp only [Target.offset, Config.Params.nbanks, Config.bankBase, Config.bankStride, Config.wmemEnd] at *
  omega

theorem wideOffset_in_wordMemory {p : Config.Params} {i j : Nat} (hi : i < p.nmax) (hj : j < 4) :
    Config.bankBase ≤ Target.offset (.wide i j) ∧ Target.offset (.wide i j) + 4 ≤ Config.wmemEnd := by
  have hmax := nmax_le p
  simp only [Target.offset, Config.bankBase, Config.wmemBase, Config.wmemEnd]
  omega

/-- Everything a transaction can do to the core (R52 to R59). -/
theorem State.effect_cases (s : State) (tx : Tx) :
    s.effect tx = s ∨ (∃ v r, s.effect tx = s.writeReg v r) ∨
      ∃ a v, Config.bankBase ≤ a ∧ a + 4 ≤ Config.wmemEnd ∧ s.effect tx = s.writeWord a v := by
  cases tx with
  | read w a => exact .inl rfl
  | write w a v =>
    cases ht : target s.params w a with
    | none => exact .inl (s.effect_write_unmapped v ht)
    | some t =>
      rw [s.effect_write v ht]
      obtain ⟨r, rfl⟩ | ⟨b, i, hb, hi, rfl⟩ | ⟨i, j, hi, hj, rfl⟩ | ⟨q, rfl⟩ := mapped_cases (mapped_of_target ht)
      · exact .inr (.inl ⟨v, r, rfl⟩)
      · obtain ⟨hlo, hhi⟩ := bankOffset_in_wordMemory hb hi
        exact .inr (.inr ⟨_, v, hlo, hhi, rfl⟩)
      · obtain ⟨hlo, hhi⟩ := wideOffset_in_wordMemory hi hj
        exact .inr (.inr ⟨_, v, hlo, hhi, rfl⟩)
      · exact .inl rfl

end Sys2Proof.Machine
end

section
/-! The invariant in four parts, one for each part of the state it speaks of: memory, STATUS, the digit counts and the
held transactions. What each operation does to a part is said of that part alone. -/

namespace Sys2Proof.Machine

/-- The invariant's facts about memory (R33, R51, R151). -/
structure MemoryInv (p : Config.Params) (m : List Host.Cell) : Prop where
  canonical : Memory.wf m
  mapped : ∀ c ∈ m, inWordMemory c.1 ∨ inDigitMemory p c.1
  decimal : ∀ c ∈ m, inDigitMemory p c.1 → c.2.toNat ≤ 9

/-- The invariant's facts about STATUS (R23, R160). -/
structure StatusInv (st : Status) : Prop where
  errCodeIffErr : st.errCode ≠ 0 ↔ st.err = true
  errCodeNamed : st.errCode.toNat ≤ 6
  notDoneAndErr : ¬(st.done = true ∧ st.err = true)
  busyClean : st.busy = true → st.done = false ∧ st.err = false

/-- The invariant's facts about DLEN and DCOUNT (R29, R144, R151). -/
structure CountsInv (p : Config.Params) (dlen dcount : Word) : Prop where
  bounds : dlen.toNat ≤ dcount.toNat ∧ dcount.toNat ≤ p.dcap
  together : dlen = 0 ↔ dcount = 0

/-- The invariant's facts about the held transactions (R60, R61). -/
structure HeldInv (p : Config.Params) (held : List Issue) : Prop where
  onePerHost : (held.map Issue.host).Nodup
  areHeld : ∀ q ∈ held, q.tx.isHeld p = true

theorem inv_iff (s : State) :
    Inv s ↔ MemoryInv s.params s.mem ∧ StatusInv s.status ∧ CountsInv s.params s.dlen s.dcount ∧
      HeldInv s.params s.held := by
  constructor
  · intro h
    exact ⟨⟨h.memCanonical, h.memMapped, h.digitsDecimal⟩,
      ⟨h.errCodeIffErr, h.errCodeNamed, h.notDoneAndErr, h.busyClean⟩,
      ⟨h.digitCounts, h.digitCountsTogether⟩, ⟨h.oneHeldPerHost, h.heldAreHeld⟩⟩
  · rintro ⟨hm, hst, hcounts, hheld⟩
    exact ⟨hm.canonical, hm.mapped, hm.decimal, hst.errCodeIffErr, hst.errCodeNamed, hst.notDoneAndErr, hst.busyClean,
      hcounts.bounds, hcounts.together, hheld.onePerHost, hheld.areHeld⟩

/-! ## Memory -/

theorem Memory.mem_of_lookup {m : List Host.Cell} {a : Nat} {v : Byte} (h : lookup m a = some v) : (a, v) ∈ m := by
  induction m with
  | nil => cases h
  | cons c m ih =>
    simp only [lookup] at h
    split at h
    · obtain ⟨x, b⟩ := c
      cases h
      subst a
      exact List.mem_cons_self
    · exact List.mem_cons_of_mem _ (ih h)

/-- Elements stored into banks and wide memory keep memory's part of the invariant: none of their bytes is a digit. -/
theorem MemoryInv.store_words {p : Config.Params} {m : List Host.Cell} (h : MemoryInv p m) {k a : Nat} (vs : List Nat)
    (hlo : Config.bankBase ≤ a) (hhi : a + k * vs.length ≤ Config.wmemEnd) :
    MemoryInv p (Memory.storeElems k a vs m) where
  canonical := Memory.wf_storeElems _ _ _ h.canonical
  mapped c hc := (Memory.mem_storeElems hc).elim (h.mapped c) fun hin => .inl ⟨by omega, by omega⟩
  decimal c hc hdigit := by
    obtain hold | ⟨-, hlt⟩ := Memory.mem_storeElems hc
    · exact h.decimal c hold hdigit
    · have : Config.wmemEnd ≤ Config.dmemBase := by decide
      have := hdigit.1
      omega

/-- Decimal digits stored into digit memory keep memory's part of the invariant. -/
theorem MemoryInv.store_digits {p : Config.Params} {m : List Host.Cell} (h : MemoryInv p m) {ds : List Nat}
    (hds : ∀ d ∈ ds, d ≤ 9) (hlen : ds.length ≤ p.dcap) :
    MemoryInv p (Memory.storeElems 1 (digitAddr 0) ds m) where
  canonical := Memory.wf_storeElems _ _ _ h.canonical
  mapped c hc := by
    obtain hold | ⟨hlo, hhi⟩ := Memory.mem_storeElems hc
    · exact h.mapped c hold
    · right
      simp only [inDigitMemory, digitAddr] at *
      omega
  decimal c hc hdigit := by
    have hlook := Memory.lookup_of_mem (Memory.wf_storeElems 1 (digitAddr 0) ds h.canonical) hc
    rw [Memory.lookup_storeElems] at hlook
    split at hlook
    case isFalse => exact h.decimal c (Memory.mem_of_lookup hlook) hdigit
    case isTrue hin =>
      have hidx : c.1 - digitAddr 0 < ds.length := by omega
      have hd : ds[c.1 - digitAddr 0] ≤ 9 := hds _ (List.getElem_mem hidx)
      rw [← Option.some.inj hlook, Nat.div_one, Nat.mod_one, pow_zero, Nat.div_one, BitVec.toNat_ofNat,
        List.getD_eq_getElem _ _ hidx]
      exact (Nat.mod_le _ _).trans hd

/-- Every command that has no error condition keeps memory's part of the invariant. -/
theorem MemoryInv.writeOf {i : Instr} {s : State} (h : MemoryInv s.params s.mem)
    (hc : firstError (checksOf i s) = none) : MemoryInv s.params (writeOf i s).mem := by
  rw [writeOf_mem]
  by_cases hi : i.opcode = .carry
  · cases i <;> cases hi
    exact h.store_digits (fun d hd => carryDigits_le hd) (length_storedElems_carry hc).2
  · obtain ⟨hlo, hhi⟩ := stored_in_wordMemory hc hi
    exact h.store_words _ hlo hhi

/-! ## STATUS -/

theorem StatusInv.accepted : StatusInv Status.accepted := ⟨by decide, by decide, by decide, by decide⟩

/-- A pending command's DONE is 0, so that an error leaves only ERR set. -/
theorem StatusInv.failed {st : Status} (h : StatusInv st) (hb : st.busy = true) (e : ErrorCode) :
    StatusInv (st.failed e) where
  errCodeIffErr := iff_of_true e.code_ne_zero rfl
  errCodeNamed := e.code_toNat_le
  notDoneAndErr := by simp [(h.busyClean hb).1]
  busyClean hbusy := nomatch hbusy

/-- A pending command's ERR is 0, so that success leaves only DONE set. -/
theorem StatusInv.succeeded {st : Status} (h : StatusInv st) (hb : st.busy = true) : StatusInv st.succeeded where
  errCodeIffErr := h.errCodeIffErr
  errCodeNamed := h.errCodeNamed
  notDoneAndErr := by simp [(h.busyClean hb).2]
  busyClean hbusy := nomatch hbusy

/-- A write of STATUS clears ERR and ERRCODE together, or leaves both (R174). -/
theorem Status.clear_error (v : Word) (st : Status) :
    ((st.clear v).err = false ∧ (st.clear v).errCode = 0) ∨
      ((st.clear v).err = st.err ∧ (st.clear v).errCode = st.errCode) := by
  unfold Status.clear
  cases v.getLsbD 2
  · exact .inr ⟨Bool.and_true _, rfl⟩
  · exact .inl ⟨Bool.and_false _, rfl⟩

theorem StatusInv.clear {st : Status} (h : StatusInv st) (v : Word) : StatusInv (st.clear v) where
  errCodeIffErr := by
    obtain ⟨herr, hcode⟩ | ⟨herr, hcode⟩ := st.clear_error v <;> rw [herr, hcode]
    · decide
    · exact h.errCodeIffErr
  errCodeNamed := by
    obtain ⟨-, hcode⟩ | ⟨-, hcode⟩ := st.clear_error v <;> rw [hcode]
    · decide
    · exact h.errCodeNamed
  notDoneAndErr := by
    have := h.notDoneAndErr
    simp only [Status.clear, Bool.and_eq_true]
    tauto
  busyClean hbusy := by
    obtain ⟨hdone, herr⟩ := h.busyClean hbusy
    simp [Status.clear, hdone, herr]

/-! ## DLEN and DCOUNT -/

theorem one_le_significant (ds : List Nat) : 1 ≤ significant ds := Nat.le_add_left 1 _

/-- A nonempty list of digits that fits digit memory gives counts that are both not 0 and do not wrap. -/
theorem CountsInv.of_digits {p : Config.Params} {ds : List Nat} (hpos : 0 < ds.length) (hle : ds.length ≤ p.dcap) :
    CountsInv p (BitVec.ofNat 32 (significant ds)) (BitVec.ofNat 32 ds.length) := by
  have hsig := significant_le (List.length_pos_iff.mp hpos)
  have hone := one_le_significant ds
  have hdcap := dcap_lt p
  have hn : (BitVec.ofNat 32 ds.length).toNat = ds.length := Nat.mod_eq_of_lt (by omega)
  have hd : (BitVec.ofNat 32 (significant ds)).toNat = significant ds := Nat.mod_eq_of_lt (by omega)
  constructor
  · omega
  · rw [← BitVec.toNat_inj, ← BitVec.toNat_inj, hn, hd, show (0 : Word).toNat = 0 from rfl]
    omega

/-- Every command that has no error condition keeps the counts' part of the invariant. -/
theorem CountsInv.writeOf {i : Instr} {s : State} (h : CountsInv s.params s.dlen s.dcount)
    (hc : firstError (checksOf i s) = none) :
    CountsInv s.params (writeOf i s).dlen (writeOf i s).dcount := by
  by_cases hi : i.opcode = .carry
  · cases i <;> cases hi
    obtain ⟨hpos, hle⟩ := length_storedElems_carry hc
    exact .of_digits hpos hle
  · obtain ⟨hdlen, hdcount⟩ := writeOf_counts s hi
    rwa [hdlen, hdcount]

/-! ## Held transactions -/

/-- A host that is not waiting can be held (R61). -/
theorem HeldInv.append {s : State} (h : HeldInv s.params s.held) {q : Issue} (hw : s.isWaiting q.host = false)
    (hq : q.tx.isHeld s.params = true) : HeldInv s.params (s.held ++ [q]) where
  onePerHost := by
    have hnew : q.host ∉ s.held.map Issue.host := by
      simpa [State.isWaiting, List.mem_map] using hw
    rw [List.map_append, List.nodup_append]
    exact ⟨h.onePerHost, List.nodup_singleton _, fun a ha b hb heq => hnew (List.mem_singleton.mp hb ▸ heq ▸ ha)⟩
  areHeld r hr := (List.mem_append.mp hr).elim (h.areHeld r) fun hr => List.mem_singleton.mp hr ▸ hq

theorem HeldInv.tail {p : Config.Params} {q : Issue} {held : List Issue} (h : HeldInv p (q :: held)) :
    HeldInv p held where
  onePerHost := (List.nodup_cons.mp h.onePerHost).2
  areHeld r hr := h.areHeld r (List.mem_cons_of_mem q hr)

end Sys2Proof.Machine
end

section
/-! Every operation of the machine keeps the invariant, and so does every step. -/

namespace Sys2Proof.Machine

/-- What is held may change as long as it is lawful; inputs and the engine's latency are free. -/
theorem Inv.with_held {s : State} (h : Inv s) {held : List Issue} (hh : HeldInv s.params held) (inputs : List Input)
    (wait : Nat) : Inv { s with held := held, inputs := inputs, wait := wait } := by
  obtain ⟨hm, hst, hcounts, -⟩ := (inv_iff s).mp h
  exact (inv_iff _).mpr ⟨hm, hst, hcounts, hh⟩

theorem Inv.writeReg {s : State} (h : Inv s) (v : Word) (r : Reg) : Inv (s.writeReg v r) := by
  obtain ⟨hm, hst, hcounts, hheld⟩ := (inv_iff s).mp h
  cases r
  case cmd => exact (inv_iff _).mpr ⟨hm, .accepted, hcounts, hheld⟩
  case status => exact (inv_iff _).mpr ⟨hm, hst.clear v, hcounts, hheld⟩
  all_goals exact (inv_iff _).mpr ⟨hm, hst, hcounts, hheld⟩

theorem Inv.writeWord {s : State} (h : Inv s) {a : Nat} (v : Word) (hlo : Config.bankBase ≤ a)
    (hhi : a + 4 ≤ Config.wmemEnd) : Inv (s.writeWord a v) := by
  obtain ⟨hm, hst, hcounts, hheld⟩ := (inv_iff s).mp h
  exact (inv_iff _).mpr ⟨hm.store_words [v.toNat] hlo hhi, hst, hcounts, hheld⟩

theorem Inv.effect {s : State} (h : Inv s) (tx : Tx) : Inv (s.effect tx) := by
  obtain hs | ⟨v, r, hs⟩ | ⟨a, v, hlo, hhi, hs⟩ := s.effect_cases tx <;> rw [hs]
  · exact h
  · exact h.writeReg v r
  · exact h.writeWord v hlo hhi

theorem Inv.perform {s : State} (h : Inv s) (q : Issue) : Inv (s.perform q) :=
  (inv_iff _).mpr ((inv_iff (s.effect q.tx)).mp (h.effect q.tx))

theorem Inv.complete {s t : State} (h : Inv s) (hb : s.status.busy = true) (ht : complete s = .next t) : Inv t := by
  obtain ⟨hm, hst, hcounts, hheld⟩ := (inv_iff s).mp h
  obtain ⟨e, hs⟩ | ⟨i, -, hc, hs⟩ := complete_cases s <;> cases hs.symm.trans ht
  · exact (inv_iff _).mpr ⟨hm, hst.failed hb e, hcounts, hheld⟩
  · rw [inv_iff]
    simp only [State.succeed_params, State.succeed_mem, State.succeed_status, State.succeed_dlen, State.succeed_dcount,
      State.succeed_held, writeOf_params, writeOf_status, writeOf_held]
    exact ⟨hm.writeOf hc, hst.succeeded hb, hcounts.writeOf hc, hheld⟩

/-- A reset meets the invariant from any state: its parts are those of the state after reset with the same parameters. -/
theorem inv_assertReset (s : State) : Inv s.assertReset :=
  (inv_iff _).mpr ((inv_iff (State.resetWith s.params)).mp (inv_resetWith s.params))

/-- Settles O56: each next state of `step_cases` is an operation that keeps the invariant. -/
theorem stepKeepsTheInvariant : Obligations.StepKeepsTheInvariant := by
  intro s t h ht
  have hheld : HeldInv s.params s.held := ⟨h.oneHeldPerHost, h.heldAreHeld⟩
  obtain ⟨hb, hs⟩ | ⟨rest, -, hs⟩ | ⟨q, rest, k, -, -, -, hw, -, hq, hs⟩ | ⟨q, rest, k, -, -, -, -, -, -, hs⟩ |
    ⟨q, rest, -, hl, hs⟩ | ⟨q, rest, -, -, -, -, hs⟩ | ⟨q, rest, -, -, -, -, hs⟩ | ⟨-, -, -, hs⟩ := step_cases s
  case inl => exact h.complete hb (hs.symm.trans ht)
  all_goals cases hs.symm.trans ht
  · exact inv_assertReset _
  · exact h.with_held (hheld.append hw hq) rest k
  · exact (h.with_held hheld rest k).perform q
  · rw [hl] at hheld
    exact (h.with_held hheld.tail s.inputs s.wait).perform q
  · exact (h.with_held hheld rest s.wait).perform q
  · exact h

/-- Settles O55: the reset state is that of the parameters of R8. -/
theorem resetMeetsTheInvariant : Obligations.ResetMeetsTheInvariant := inv_resetWith Config.defaults

end Sys2Proof.Machine
end

section
/-! What a command's results are and what they depend on: SR, the digits with DLEN and DCOUNT, and the elements below the
length of an array command. -/

namespace Sys2Proof.Machine

open Sys2Proof.Spec

/-! ## The results only a command or a reset changes -/

/-- SR, DLEN, DCOUNT and every byte from digit memory on are the same. -/
def SameResults (s t : State) : Prop :=
  t.sr = s.sr ∧ t.dlen = s.dlen ∧ t.dcount = s.dcount ∧ ∀ a, Config.dmemBase ≤ a → t.readByte a = s.readByte a

theorem SameResults.refl (s : State) : SameResults s s := ⟨rfl, rfl, rfl, fun _ _ => rfl⟩

/-- No transaction writes a result (R57, R59). -/
theorem State.effect_sameResults (s : State) (tx : Tx) : SameResults s (s.effect tx) := by
  obtain hs | ⟨v, r, hs⟩ | ⟨a, v, -, hhi, hs⟩ := s.effect_cases tx <;> rw [hs]
  · exact .refl s
  · cases r <;> exact ⟨rfl, rfl, rfl, fun _ _ => rfl⟩
  · have hregions : Config.wmemEnd ≤ Config.dmemBase := by decide
    exact ⟨rfl, rfl, rfl, fun x hx => s.readByte_writeWord_outside v (.inr (by omega))⟩

theorem State.perform_sameResults (s : State) (q : Issue) : SameResults s (s.perform q) := s.effect_sameResults q.tx

/-- A step takes a reset, completes the pending command, or leaves every result as it is. -/
theorem step_results {s t : State} (h : step s = .next t) :
    (s.inputs.head? = some .reset ∧ t = ({ s with inputs := s.inputs.tail } : State).assertReset) ∨
      (s.status.busy = true ∧ complete s = .next t) ∨ SameResults s t := by
  obtain ⟨hb, hs⟩ | ⟨rest, hi, hs⟩ | ⟨q, rest, k, -, -, -, -, -, -, hs⟩ | ⟨q, rest, k, -, -, -, -, -, -, hs⟩ |
    ⟨q, rest, -, -, hs⟩ | ⟨q, rest, -, -, -, -, hs⟩ | ⟨q, rest, -, -, -, -, hs⟩ | ⟨-, -, -, hs⟩ := step_cases s
  case inl => exact .inr (.inl ⟨hb, hs.symm.trans h⟩)
  all_goals cases hs.symm.trans h
  · exact .inl ⟨by rw [hi]; rfl, by rw [hi]; rfl⟩
  · exact .inr (.inr (.refl s))
  · exact .inr (.inr (State.perform_sameResults _ q))
  · exact .inr (.inr (State.perform_sameResults _ q))
  · exact .inr (.inr (State.perform_sameResults _ q))
  · exact .inr (.inr (.refl s))

/-! ## SR -/

theorem powmod_lt (a e : Nat) {p : Nat} (h : 0 < p) : powmod a e p < p := powLoop_lt h _ _ _ _ (Nat.mod_lt _ h)

theorem State.setSr_lt (s : State) {v p : Nat} (h : v < p) : (s.setSr v).sr.toNat < p := (Nat.mod_le _ _).trans_lt h

/-- Only the scalar commands write SR, and what they write is a residue of their modulus (R26). -/
theorem writeOf_sr {i : Instr} {s : State} (hc : firstError (checksOf i s) = none) :
    (writeOf i s).sr = s.sr ∨
      ∃ k, (i = .mulmod k ∨ i = .powmod k ∨ i = .invmod k) ∧ (writeOf i s).sr.toNat < s.prime k := by
  cases i with
  | mulmod k =>
    have hp : 0 < s.prime k := Nat.zero_lt_of_lt (two_le_prime_of_checks hc rfl)
    exact .inr ⟨k, .inl rfl, s.setSr_lt (mulmod_lt _ _ hp)⟩
  | powmod k =>
    have hp : 0 < s.prime k := Nat.zero_lt_of_lt (two_le_prime_of_checks hc rfl)
    exact .inr ⟨k, .inr (.inl rfl), s.setSr_lt (powmod_lt _ _ hp)⟩
  | invmod k =>
    have hp : 0 < s.prime k := Nat.zero_lt_of_lt (two_le_prime_of_checks hc rfl)
    exact .inr ⟨k, .inr (.inr rfl), s.setSr_lt (powmod_lt _ _ hp)⟩
  | nttf k l ba => exact .inl rfl
  | ntti k l ba => exact .inl rfl
  | pmul k l ba bb => exact .inl rfl
  | crt3 l ba bb bc => exact .inl rfl
  | carry l ba dig w => exact .inl rfl

theorem exec_sr {i : Instr} {s t : State} (h : exec i s = .next t) :
    t.sr = s.sr ∨
      ∃ k, (i = .mulmod k ∨ i = .powmod k ∨ i = .invmod k) ∧ t.sr.toNat < s.prime k ∧ t.status = s.status.succeeded := by
  obtain ⟨e, -, hs⟩ | ⟨hc, hs⟩ := exec_cases i s <;> cases hs.symm.trans h
  · exact .inl rfl
  · obtain hsr | ⟨k, hi, hlt⟩ := writeOf_sr hc
    · exact .inl hsr
    · exact .inr ⟨k, hi, hlt, by simp⟩

/-- Settles O11: the commands by `exec_sr`; a step that changes SR is by `step_results` a reset or a completion, and an
illegal word completes with SR as it was. -/
theorem srIsWrittenByScalarCommandsOnly : Obligations.SrIsWrittenByScalarCommandsOnly := by
  refine ⟨fun i s t => exec_sr, fun s t h hne => ?_⟩
  obtain hreset | ⟨hb, hcomplete⟩ | ⟨hsr, -⟩ := step_results h
  · exact .inl hreset
  · cases hd : decode s.cmd with
    | error d =>
      cases (complete_error hd).symm.trans hcomplete
      exact absurd rfl hne
    | ok i =>
      obtain hsr | ⟨k, hi, hlt, hst⟩ := exec_sr ((complete_ok hd).symm.trans hcomplete)
      · exact absurd hsr hne
      · refine .inr ⟨hb, k, ?_, hlt, hst⟩
        simpa only [Except.ok.injEq] using hi
  · exact absurd hsr hne

/-! ## Digits -/

/-- A command without an error condition that is no CARRY leaves DLEN, DCOUNT and digit memory as they are (R29, R33). -/
theorem writeOf_digits {i : Instr} {s : State} (hc : firstError (checksOf i s) = none) (hi : i.opcode ≠ .carry) :
    (writeOf i s).dlen = s.dlen ∧ (writeOf i s).dcount = s.dcount ∧
      ∀ a, Config.dmemBase ≤ a → (writeOf i s).readByte a = s.readByte a := by
  obtain ⟨hdlen, hdcount⟩ := writeOf_counts s hi
  obtain ⟨-, hend⟩ := stored_in_wordMemory hc hi
  have hregions : Config.wmemEnd ≤ Config.dmemBase := by decide
  exact ⟨hdlen, hdcount, fun a ha => readByte_writeOf_outside (.inr (by omega))⟩

/-- Settles O12: a step that changes a digit or its counts is by `step_results` a reset or a completion, and of the
completions only a successful CARRY changes any. -/
theorem digitsAreWrittenByCarryOnly : Obligations.DigitsAreWrittenByCarryOnly := by
  intro s t h hne
  have changed : ¬(t.dlen = s.dlen ∧ t.dcount = s.dcount ∧ ∀ a, Config.dmemBase ≤ a → t.readByte a = s.readByte a) := by
    rintro ⟨hdlen, hdcount, hbytes⟩
    obtain hne | hne | ⟨a, ha, hne⟩ := hne
    · exact hne hdlen
    · exact hne hdcount
    · exact hne (hbytes a ha.1)
  obtain hreset | ⟨hb, hcomplete⟩ | ⟨-, hsame⟩ := step_results h
  · exact .inl hreset
  · obtain ⟨e, hs⟩ | ⟨i, hd, hc, hs⟩ := complete_cases s <;> cases hs.symm.trans hcomplete
    · exact absurd ⟨rfl, rfl, fun _ _ => rfl⟩ changed
    · by_cases hi : i.opcode = .carry
      · cases i <;> cases hi
        exact .inr ⟨hb, _, _, _, _, hd, by simp⟩
      · exact absurd (writeOf_digits hc hi) changed
  · exact absurd hsame changed

/-! ## Elements below the length of an array command -/

/-- Numbers of the same number of bytes are equal only when every byte is. -/
theorem State.readByte_of_readLE_eq {s v : State} {k a : Nat} (h : v.readLE k a = s.readLE k a) {x : Nat} (hlo : a ≤ x)
    (hhi : x < a + k) : v.readByte x = s.readByte x := by
  induction k generalizing a with
  | zero => omega
  | succ k ih =>
    simp only [State.readLE] at h
    have hv := (v.readByte a).isLt
    have hs := (s.readByte a).isLt
    obtain rfl | hne := eq_or_ne x a
    · exact BitVec.eq_of_toNat_eq (by omega)
    · exact ih (a := a + 1) (by omega) (by omega) (by omega)

theorem State.readByte_of_bank_eq {s v : State} {b : BankIx} {j : Nat} (h : v.bank b j = s.bank b j) {x : Nat}
    (hlo : bankAddr b j ≤ x) (hhi : x < bankAddr b j + 4) : v.readByte x = s.readByte x := by
  refine State.readByte_of_readLE_eq (k := 4) ?_ hlo hhi
  have hv : v.readLE 4 (bankAddr b j) < 2 ^ 32 := v.readLE_lt 4 _
  have hs : s.readLE 4 (bankAddr b j) < 2 ^ 32 := s.readLE_lt 4 _
  have heq := congrArg BitVec.toNat h
  simpa only [State.bank, BitVec.toNat_ofNat, Nat.mod_eq_of_lt hv, Nat.mod_eq_of_lt hs] using heq

theorem State.readByte_of_wide_eq {s v : State} {j : Nat} (h : v.wide j = s.wide j) {x : Nat}
    (hlo : wideAddr j ≤ x) (hhi : x < wideAddr j + 16) : v.readByte x = s.readByte x := by
  refine State.readByte_of_readLE_eq (k := 16) ?_ hlo hhi
  have hv : v.readLE 16 (wideAddr j) < 2 ^ 128 := v.readLE_lt 16 _
  have hs : s.readLE 16 (wideAddr j) < 2 ^ 128 := s.readLE_lt 16 _
  have heq := congrArg BitVec.toNat h
  simpa only [State.wide, BitVec.toNat_ofNat, Nat.mod_eq_of_lt hv, Nat.mod_eq_of_lt hs] using heq

/-- Two states agree on every element below n of every array. -/
def SameBelow (n : Nat) (s v : State) : Prop := ∀ j, j < n → v.wide j = s.wide j ∧ ∀ b, v.bank b j = s.bank b j

theorem SameBelow.bankPrefix_eq {n : Nat} {s v : State} (h : SameBelow n s v) (b : BankIx) :
    v.bankPrefix b n = s.bankPrefix b n :=
  List.map_congr_left fun j hj => congrArg BitVec.toNat ((h j (List.mem_range.mp hj)).2 b)

theorem SameBelow.widePrefix_eq {n : Nat} {s v : State} (h : SameBelow n s v) : v.widePrefix n = s.widePrefix n :=
  List.map_congr_left fun j hj => congrArg BitVec.toNat (h j (List.mem_range.mp hj)).1

theorem prime_congr {s v : State} (h : SameRegisters s v) (k : ModSel) : v.prime k = s.prime k := by
  obtain ⟨-, -, -, -, -, h0, -, h1, -, h2, -, -, -⟩ := h
  simp only [State.prime, h0, h1, h2]

theorem root_congr {s v : State} (h : SameRegisters s v) (k : ModSel) : v.root k = s.root k := by
  obtain ⟨-, -, -, -, -, -, h0, -, h1, -, h2, -, -⟩ := h
  simp only [State.root, h0, h1, h2]

/-- The check phase reads registers only. -/
theorem checksOf_congr {s v : State} (h : SameRegisters s v) (i : Instr) : checksOf i v = checksOf i s := by
  obtain ⟨hparams, -, hsa, -⟩ := id h
  cases i <;> simp only [checksOf, prime_congr h, root_congr h, hparams, hsa]

/-- What an array command stores depends on the registers and on the elements below its length only (R31). -/
theorem storedElems_congr {i : Instr} {l : Log2N} {s v : State} (hl : log2n? i = some l) (h : SameRegisters s v)
    (hbelow : SameBelow (2 ^ l.val) s v) : storedElems i v = storedElems i s := by
  cases i <;> cases hl
  case carry ba dig w =>
    cases w <;> simp only [storedElems, State.carrySource, arrayLen, hbelow.bankPrefix_eq, hbelow.widePrefix_eq]
  all_goals simp only [storedElems, arrayLen, prime_congr h, root_congr h, hbelow.bankPrefix_eq]

/-- Bytes that agree before two write phases that store the same agree after them, and so does every stored byte. -/
theorem readByte_writeOf_congr {i : Instr} {s v : State} (he : storedElems i v = storedElems i s) {x : Nat}
    (hx : (storedBase i ≤ x ∧ x < storedEnd i s) ∨ v.readByte x = s.readByte x) :
    (writeOf i v).readByte x = (writeOf i s).readByte x := by
  rw [readByte_writeOf, readByte_writeOf, storedEnd, storedEnd, he]
  split
  · rfl
  · exact hx.resolve_left ‹_›

theorem SameBelow.writeOf {i : Instr} {n : Nat} {s v : State} (h : SameBelow n s v)
    (he : storedElems i v = storedElems i s) : SameBelow n (writeOf i s) (writeOf i v) := by
  intro j hj
  obtain ⟨hwide, hbank⟩ := h j hj
  exact ⟨State.wide_congr fun x hlo hhi => readByte_writeOf_congr he (.inr (State.readByte_of_wide_eq hwide hlo hhi)),
    fun b => State.bank_congr fun x hlo hhi =>
      readByte_writeOf_congr he (.inr (State.readByte_of_bank_eq (hbank b) hlo hhi))⟩

/-- SR after a write phase depends on registers only. -/
theorem writeOf_sr_congr {s v : State} (h : SameRegisters s v) (i : Instr) : (writeOf i v).sr = (writeOf i s).sr := by
  obtain ⟨-, -, hsa, hsb, hsr, -⟩ := id h
  cases i
  case mulmod k | powmod k | invmod k => simp only [writeOf, State.setSr_sr, hsa, hsb, prime_congr h]
  all_goals exact hsr

/-- DLEN and DCOUNT after a write phase depend on what is stored, or are what they were. -/
theorem writeOf_counts_congr {i : Instr} {s v : State} (h : SameRegisters s v)
    (he : storedElems i v = storedElems i s) :
    (writeOf i v).dlen = (writeOf i s).dlen ∧ (writeOf i v).dcount = (writeOf i s).dcount := by
  by_cases hi : i.opcode = .carry
  · cases i <;> cases hi
    exact ⟨congrArg (fun ds => BitVec.ofNat 32 (significant ds)) he,
      congrArg (fun ds : List Nat => BitVec.ofNat 32 ds.length) he⟩
  · obtain ⟨-, -, -, -, -, -, -, -, -, -, -, hdlen, hdcount⟩ := h
    obtain ⟨hsl, hsc⟩ := writeOf_counts s hi
    obtain ⟨hvl, hvc⟩ := writeOf_counts v hi
    rw [hsl, hsc, hvl, hvc]
    exact ⟨hdlen, hdcount⟩

/-- Two successful runs that store the same from the same registers leave the same registers. -/
theorem succeed_writeOf_congr {i : Instr} {s v : State} (h : SameRegisters s v)
    (he : storedElems i v = storedElems i s) : SameRegisters (writeOf i s).succeed (writeOf i v).succeed := by
  have hsr := writeOf_sr_congr h i
  obtain ⟨hdlen, hdcount⟩ := writeOf_counts_congr h he
  obtain ⟨hp, hst, hsa, hsb, -, hp0, hg0, hp1, hg1, hp2, hg2, -, -⟩ := h
  rw [writeOf_frame i s, writeOf_frame i v]
  exact ⟨hp, congrArg Status.succeeded hst, hsa, hsb, hsr, hp0, hg0, hp1, hg1, hp2, hg2, hdlen, hdcount⟩

theorem raise_congr {s v : State} (h : SameRegisters s v) (e : ErrorCode) : SameRegisters (s.raise e) (v.raise e) := by
  obtain ⟨hp, hst, hrest⟩ := h
  exact ⟨hp, congrArg (Status.failed e) hst, hrest⟩

/-! ## Elements at the length of an array command or above -/

/-- An element at index n or above lies outside the first n elements of every bank. -/
theorem bank_apart_from_bank (p : Config.Params) (b ba : BankIx) {n j : Nat} (hn : n ≤ j) (hj : j < p.nmax) :
    bankAddr b j + 4 ≤ bankAddr ba 0 ∨ bankAddr ba n ≤ bankAddr b j := by
  have hmax := nmax_le p
  simp only [bankAddr, Config.bankBase, Config.bankStride]
  obtain h | h | h := lt_trichotomy b.val ba.val <;> omega

theorem bank_outside_stored {i : Instr} {l : Log2N} (s : State) (hl : log2n? i = some l) (b : BankIx) {j : Nat}
    (hn : 2 ^ l.val ≤ j) (hj : j < s.params.nmax) :
    bankAddr b j + 4 ≤ storedBase i ∨ storedEnd i s ≤ bankAddr b j := by
  have hbelow : bankAddr b j + 4 ≤ Config.wmemBase := (bank_in_wordMemory s.params b hj).2
  have hregions : Config.wmemBase ≤ Config.dmemBase := by decide
  cases i <;> cases hl
  case nttf k ba =>
    rw [storedEnd_nttf]
    exact bank_apart_from_bank s.params b ba hn hj
  case ntti k ba =>
    rw [storedEnd_ntti]
    exact bank_apart_from_bank s.params b ba hn hj
  case pmul k ba bb =>
    rw [storedEnd_pmul]
    exact bank_apart_from_bank s.params b ba hn hj
  case crt3 => exact .inl hbelow
  case carry => exact .inl (hbelow.trans hregions)

theorem wide_outside_stored {i : Instr} {l : Log2N} (s : State) (hl : log2n? i = some l) {j : Nat}
    (hn : 2 ^ l.val ≤ j) (hj : j < s.params.nmax) :
    wideAddr j + 16 ≤ storedBase i ∨ storedEnd i s ≤ wideAddr j := by
  have hbank : ∀ ba, bankAddr ba (2 ^ l.val) ≤ wideAddr j := fun ba =>
    (bank_in_wordMemory s.params ba (hn.trans hj.le)).2.trans (Nat.le_add_right _ _)
  cases i <;> cases hl
  case nttf k ba => exact .inr (storedEnd_nttf k l ba s ▸ hbank ba)
  case ntti k ba => exact .inr (storedEnd_ntti k l ba s ▸ hbank ba)
  case pmul k ba bb => exact .inr (storedEnd_pmul k l ba bb s ▸ hbank ba)
  case crt3 ba bb bc =>
    rw [storedEnd_crt3]
    exact .inr (Nat.add_le_add_left (Nat.mul_le_mul_left 16 hn) _)
  case carry =>
    have hbelow : wideAddr j + 16 ≤ Config.wmemEnd := wide_in_wordMemory s.params hj
    have hregions : Config.wmemEnd ≤ Config.dmemBase := by decide
    exact .inl (hbelow.trans hregions)

/-- An array command changes no element at an index of n or more (R31). -/
theorem writeOf_keeps_elements_past {i : Instr} {l : Log2N} (s : State) (hl : log2n? i = some l) {j : Nat}
    (hn : 2 ^ l.val ≤ j) (hj : j < s.params.nmax) :
    (writeOf i s).wide j = s.wide j ∧ ∀ b, (writeOf i s).bank b j = s.bank b j := by
  refine ⟨State.wide_congr fun x hlo hhi => ?_, fun b => State.bank_congr fun x hlo hhi => ?_⟩
  · have := wide_outside_stored s hl hn hj
    exact readByte_writeOf_outside (by omega)
  · have := bank_outside_stored s hl b hn hj
    exact readByte_writeOf_outside (by omega)

/-- Every digit below DCOUNT after a CARRY is a stored one. -/
theorem digit_stored_of_lt_dcount {l : Log2N} {ba : BankIx} {dig : DigitCount} {w : Bool} {s : State} {k : Nat}
    (hk : k < (writeOf (.carry l ba dig w) s).dcount.toNat) :
    storedBase (.carry l ba dig w) ≤ digitAddr k ∧ digitAddr k < storedEnd (.carry l ba dig w) s := by
  have hlt : k < (storedElems (.carry l ba dig w) s).length := hk.trans_le (Nat.mod_le _ _)
  simp only [storedEnd, storedBase, storedWidth, digitAddr]
  omega

/-- Settles O13: an element at n or above lies outside the destination, and both runs report the same error or store the
same elements. -/
theorem arrayCommandsStayBelowTheirLength : Obligations.ArrayCommandsStayBelowTheirLength := by
  constructor
  · intro i l s t hl h j hn hj
    obtain ⟨e, -, hs⟩ | ⟨-, hs⟩ := exec_cases i s <;> cases hs.symm.trans h
    · exact ⟨rfl, fun _ => rfl⟩
    · exact writeOf_keeps_elements_past s hl hn hj
  · intro i l s v hl _ hregs hbelow
    have hchecks := checksOf_congr hregs i
    have hstored := storedElems_congr hl hregs hbelow
    obtain ⟨e, he, hs⟩ | ⟨hc, hs⟩ := exec_cases i s
    · exact ⟨_, _, hs, exec_error (hchecks ▸ he), raise_congr hregs e, hbelow, fun _ _ _ _ _ herr => nomatch herr⟩
    · refine ⟨_, _, hs, exec_ok (hchecks ▸ hc), succeed_writeOf_congr hregs hstored,
        SameBelow.writeOf hbelow hstored, ?_⟩
      rintro l' ba d w rfl - k hk
      exact readByte_writeOf_congr hstored (.inl (digit_stored_of_lt_dcount hk))

end Sys2Proof.Machine
end

section
/-! The registers as the host reaches them: each at its offset of R20, what its word holds bit by bit, and what a write of
it does. Then reset, the interrupt output and STATUS. -/

namespace Sys2Proof.Machine

open Sys2Proof.Spec

/-! ## A register at its offset -/

/-- Every register is mapped at its own offset, for every value of the parameters (R20, R51). -/
theorem target_offset (p : Config.Params) (r : Reg) : target p 4 r.offset = some (.reg r) := by
  have haligned : r.offset % 4 = 0 := by cases r <;> decide
  have hblock : r.offset < Config.regBlockBytes := by cases r <;> decide
  rw [target, if_pos ⟨rfl, haligned⟩, mapped, if_pos hblock, Reg.at?_offset]
  rfl

theorem State.response_read_reg (s : State) (r : Reg) :
    s.response (.read 4 r.offset) = (.okay, some (s.readReg r)) := by
  rw [State.response, target_offset]
  rfl

theorem State.response_write_reg (s : State) (r : Reg) (v : Word) :
    s.response (.write 4 r.offset v) = (.okay, none) := by
  rw [State.response, target_offset]

theorem State.effect_write_reg (s : State) (r : Reg) (v : Word) :
    s.effect (.write 4 r.offset v) = s.writeReg v r := s.effect_write v (target_offset s.params r)

/-! ## The words of PARAMS, CTRL and STATUS -/

theorem bits_eq (w : Word) (hi lo : Nat) : bits w hi lo = w.toNat / 2 ^ lo % 2 ^ (hi + 1 - lo) := by
  rw [bits, BitVec.extractLsb'_toNat, Nat.shiftRight_eq_div_pow]

theorem getLsbD_eq_decide (w : Word) (i : Nat) : w.getLsbD i = decide (w.toNat / 2 ^ i % 2 = 1) :=
  Nat.testBit_eq_decide_div_mod_eq

/-- PARAMS field by field (R21). -/
theorem bits_paramsWord (p : Config.Params) :
    bits (paramsWord p) 4 0 = p.log2Nmax.val ∧ bits (paramsWord p) 7 5 = 0 ∧
      bits (paramsWord p) 11 8 = p.nbanks - 1 ∧ bits (paramsWord p) 15 12 = 9 ∧ bits (paramsWord p) 17 16 = 3 ∧
      bits (paramsWord p) 31 18 = 0 := by
  have h1 := p.log2Nmax.isLt
  have h2 := p.lastBank.isLt
  simp only [bits_eq, paramsWord, Config.Params.nbanks, Config.maxDig, Config.nmod, BitVec.toNat_ofNat]
  omega

theorem paramsWord_defaults : paramsWord Config.defaults = 0x00039713 := by decide

/-- CTRL holds IRQ_EN in bit 0 and nothing else (R22). -/
theorem ctrlWord_bits (irqEn : Bool) : (ctrlWord irqEn).getLsbD 0 = irqEn ∧ ctrlWord irqEn >>> 1 = 0 := by
  cases irqEn <;> decide

theorem Status.toNat_toWord (st : Status) :
    st.toWord.toNat = st.busy.toNat + st.done.toNat * 2 + st.err.toNat * 4 + st.errCode.toNat * 16 := by
  have hb := Bool.toNat_lt st.busy
  have hd := Bool.toNat_lt st.done
  have he := Bool.toNat_lt st.err
  have hc := st.errCode.isLt
  exact Nat.mod_eq_of_lt (by omega)

/-- A bit that equals the number of a Bool is that Bool. -/
theorem decide_eq_of_toNat {n : Nat} {b : Bool} (h : n = b.toNat) : decide (n = 1) = b := by
  subst h
  cases b <;> rfl

/-- STATUS field by field (R23). -/
theorem Status.toWord_bits (st : Status) :
    st.toWord.getLsbD 0 = st.busy ∧ st.toWord.getLsbD 1 = st.done ∧ st.toWord.getLsbD 2 = st.err ∧
      st.toWord.getLsbD 3 = false ∧ st.toWord.extractLsb' 4 4 = st.errCode ∧ st.toWord >>> 8 = 0 := by
  have hw := st.toNat_toWord
  have hb := Bool.toNat_lt st.busy
  have hd := Bool.toNat_lt st.done
  have he := Bool.toNat_lt st.err
  have hc := st.errCode.isLt
  simp only [getLsbD_eq_decide, ← BitVec.toNat_inj, BitVec.extractLsb'_toNat, BitVec.toNat_ushiftRight,
    Nat.shiftRight_eq_div_pow, hw]
  refine ⟨decide_eq_of_toNat ?_, decide_eq_of_toNat ?_, decide_eq_of_toNat ?_, decide_eq_false ?_, ?_, ?_⟩
  · omega
  · omega
  · omega
  · omega
  · omega
  · show _ = 0
    omega

/-! ## Registers that are stored as written -/

/-- A register whose write stores the word reads back as written, and every other register reads as before (R25, R27,
R58). -/
theorem State.readReg_writeReg {r : Reg}
    (hr : r ∈ [Reg.sa, Reg.sb, Reg.modP0, Reg.modG0, Reg.modP1, Reg.modG1, Reg.modP2, Reg.modG2]) (s : State) (v : Word)
    (q : Reg) : (s.writeReg v r).readReg q = if q = r then v else s.readReg q := by
  simp only [List.mem_cons, List.not_mem_nil, or_false] at hr
  rcases hr with rfl | rfl | rfl | rfl | rfl | rfl | rfl | rfl <;> cases q <;> rfl

/-- Settles O42: every clause is a read or a write of one register at its offset, by `State.response_read_reg`,
`State.response_write_reg` and `State.effect_write_reg`; the fields by the lemmas about the three words. -/
theorem readWriteRegistersReadBack : Obligations.ReadWriteRegistersReadBack := by
  refine ⟨fun s => ⟨⟨_, s.response_read_reg .params, bits_paramsWord s.params⟩,
      ⟨_, s.response_read_reg .ctrl, ctrlWord_bits s.irqEn⟩, ⟨_, s.response_read_reg .status, s.status.toWord_bits⟩,
      s.response_read_reg .cmd, s.response_read_reg .sa, s.response_read_reg .sb, s.response_read_reg .sr,
      s.response_read_reg .modP0, s.response_read_reg .modG0, s.response_read_reg .modP1, s.response_read_reg .modG1,
      s.response_read_reg .modP2, s.response_read_reg .modG2, s.response_read_reg .dlen, s.response_read_reg .dcount⟩,
    fun s a v ha => ?_,
    fun s v => ⟨s.effect_write_reg .params v, s.effect_write_reg .ctrl v, s.effect_write_reg .status v, ?_,
      s.effect_write_reg .sr v, s.effect_write_reg .dlen v, s.effect_write_reg .dcount v⟩,
    fun s v => ⟨s.effect_write_reg .sa v, s.effect_write_reg .sb v, s.effect_write_reg .modP0 v,
      s.effect_write_reg .modG0 v, s.effect_write_reg .modP1 v, s.effect_write_reg .modG1 v,
      s.effect_write_reg .modP2 v, s.effect_write_reg .modG2 v⟩,
    fun s r v hr => ?_⟩
  · have hoffsets : regOffsets = Reg.all.map Reg.offset := by decide
    obtain ⟨r, -, rfl⟩ := List.mem_map.mp (hoffsets ▸ ha)
    exact s.response_write_reg r v
  · rw [show (0x00C : Nat) = Reg.cmd.offset from rfl, s.effect_write_reg .cmd v]
    rfl
  · have hst : r ≠ .cmd ∧ r ≠ .status := by
      constructor <;> rintro rfl <;> simp at hr
    rw [s.effect_write_reg r v, State.response_read_reg, State.readReg_writeReg hr, if_pos rfl]
    exact ⟨rfl, fun q hq => by rw [State.readReg_writeReg hr, if_neg hq], s.writeReg_mem v r,
      s.writeReg_status v r hst.1 hst.2⟩

/-- A transaction that R60 excepts is performed at once while a command runs. -/
theorem step_busy_excepted {s : State} {q : Issue} {rest : List Input} {k : Nat} (hb : s.status.busy = true)
    (hw : s.wait = k + 1) (hi : s.inputs = .issue q :: rest) (hwait : s.isWaiting q.host = false)
    (hfault : s.hostAtFault q.host = false) (hfree : q.tx.isHeld s.params = false) :
    step s = .next ({ s with inputs := rest, wait := k }.perform q) := by
  rw [step_busy_input hb hi hw]
  simp [takeWhileBusy, hwait, hfault, hfree]

/-- Settles O47: PARAMS by its fields, and a read of it is one that R60 excepts. -/
theorem paramsIsConstant : Obligations.ParamsIsConstant := by
  refine ⟨fun s => ⟨_, s.response_read_reg .params, bits_paramsWord s.params⟩, fun s hp => ?_,
    fun s h k rest hb hw hi hwait hfault => ?_⟩
  · have hread : s.readReg .params = 0x00039713 := by rw [State.readReg, hp, paramsWord_defaults]
    exact hread ▸ s.response_read_reg .params
  · have hfree : (Tx.read 4 Reg.params.offset).isHeld s.params = false := by
      rw [Tx.isHeld, target_offset]
      rfl
    rw [step_busy_excepted hb hw hi hwait hfault hfree, State.perform_eq, State.effect_read,
      show Tx.read 4 0x000 = Tx.read 4 Reg.params.offset from rfl, State.response_read_reg, State.response_read_reg]
    rfl

/-! ## Reset -/

/-- A reset that is next is taken by an idle core with nothing held, and by a running one whose latency lets it pass. -/
theorem step_reset {s : State} {rest : List Input} (hi : s.inputs = .reset :: rest)
    (h : (s.status.busy = true ∧ 0 < s.wait) ∨ (s.status.busy = false ∧ s.held = [])) :
    step s = .next { s with inputs := rest }.assertReset := by
  obtain ⟨hb, hw⟩ | ⟨hb, hh⟩ := h
  · obtain ⟨k, hk⟩ := Nat.exists_eq_succ_of_ne_zero hw.ne'
    exact step_busy_input hb hi hk
  · exact step_idle_input hb hh hi

/-- Settles O53: the step is `step_reset`, and every field is then the reset state's. -/
theorem resetPutsRegistersToTheirResetValues : Obligations.ResetPutsRegistersToTheirResetValues := by
  intro s rest hi h
  refine ⟨_, step_reset hi h, rfl, rfl, rfl, rfl, rfl, rfl, rfl, rfl, rfl, rfl, rfl, rfl, rfl, rfl, rfl, fun hp => ?_, rfl,
    rfl, rfl, fun a => rfl, rfl⟩
  simp only [State.assertReset_modP0, State.assertReset_modG0, State.assertReset_modP1, State.assertReset_modG1,
    State.assertReset_modP2, State.assertReset_modG2, State.readReg, State.assertReset_params, hp]
  decide

/-! ## The interrupt output and STATUS -/

/-- A completion sets DONE or ERR, so that IRQ is then IRQ_EN (R37, R172). -/
theorem exec_irq {i : Instr} {s t : State} (h : exec i s = .next t) : t.irq = s.irqEn := by
  obtain ⟨e, -, hs⟩ | ⟨-, hs⟩ := exec_cases i s <;> cases hs.symm.trans h <;> simp [State.irq]

/-- Settles O46: completion by `exec_irq`; acceptance and a write of 6 to STATUS leave DONE and ERR 0. -/
theorem interruptFollowsCompletion : Obligations.InterruptFollowsCompletion := by
  refine ⟨fun s => by simp [State.irq], fun i s t => exec_irq, fun s v => ?_, fun s => ?_⟩
  · rw [show (0x00C : Nat) = Reg.cmd.offset from rfl, s.effect_write_reg .cmd v]
    exact Bool.and_false _
  · rw [show (0x008 : Nat) = Reg.status.offset from rfl, s.effect_write_reg .status 6]
    simp [State.irq, State.writeReg, Status.clear]

theorem Status.clear_of_clean {st : Status} (v : Word) (hdone : st.done = false) (herr : st.err = false)
    (hcode : st.errCode = 0) : st.clear v = st := by
  obtain ⟨busy, done, err, errCode⟩ := st
  subst hdone herr hcode
  rw [Status.clear, ite_self, Bool.false_and, Bool.false_and]

/-- Settles O57: while BUSY is 1, DONE, ERR and so ERRCODE are 0, and clearing them changes nothing. -/
theorem statusWriteWhileBusyHasNoEffect : Obligations.StatusWriteWhileBusyHasNoEffect := by
  intro s v h hb
  obtain ⟨hdone, herr⟩ := h.busyClean hb
  have hcode : s.status.errCode = 0 := by
    by_contra hne
    exact absurd (h.errCodeIffErr.mp hne) (by simp [herr])
  have hclear : s.status.clear v = s.status := Status.clear_of_clean v hdone herr hcode
  rw [show (0x008 : Nat) = Reg.status.offset from rfl, s.effect_write_reg .status v]
  show { s with status := s.status.clear v } = s
  rw [hclear]

end Sys2Proof.Machine
end

section
/-! The map of the aperture in both directions: an access reaches a target exactly when it is 4 bytes wide at the offset of
a target the core has. -/

namespace Sys2Proof.Machine

open Sys2Proof.Spec

/-- The targets a core with the given parameters has (R51). -/
def Target.InCore (p : Config.Params) : Target → Prop
  | .reg _ => True
  | .bank b i => b < p.nbanks ∧ i < p.nmax
  | .wide i j => i < p.nmax ∧ j < 4
  | .digits q => q < p.dcap / 4

theorem offset_of_mapped {p : Config.Params} {a : Nat} {t : Target} (haligned : a % 4 = 0) (h : mapped p a = some t) :
    t.InCore p ∧ t.offset = a := by
  simp only [mapped] at h
  split_ifs at h with hreg _ hbank hin _ hwide hin _ hin
  · obtain ⟨r, hr, rfl⟩ := Option.map_eq_some_iff.mp h
    exact ⟨trivial, Reg.offset_of_at? hr⟩
  · cases h
    refine ⟨hin, ?_⟩
    simp only [Target.offset, Config.bankBase, Config.bankStride] at *
    omega
  · cases h
    refine ⟨⟨hin, by omega⟩, ?_⟩
    simp only [Target.offset, Config.wmemBase] at *
    omega
  · cases h
    refine ⟨hin, ?_⟩
    simp only [Target.offset, Config.dmemBase] at *
    omega

theorem mapped_bank {p : Config.Params} {b i : Nat} (hb : b < p.nbanks) (hi : i < p.nmax) :
    mapped p (Target.offset (.bank b i)) = some (.bank b i) := by
  obtain ⟨hlo, -⟩ := bankOffset_in_wordMemory hb hi
  have hmax := nmax_le p
  have hlast := p.lastBank.isLt
  have hdiv : (Target.offset (.bank b i) - Config.bankBase) / Config.bankStride = b := by
    simp only [Target.offset, Config.bankBase, Config.bankStride]
    omega
  have hmod : (Target.offset (.bank b i) - Config.bankBase) % Config.bankStride / 4 = i := by
    simp only [Target.offset, Config.bankBase, Config.bankStride]
    omega
  have hhi : Target.offset (.bank b i) < Config.bankBase + Config.bankSlots * Config.bankStride := by
    simp only [Target.offset, Config.Params.nbanks, Config.bankBase, Config.bankStride, Config.bankSlots] at *
    omega
  have hblock : Config.regBlockBytes ≤ Config.bankBase := by decide
  simp only [mapped, hdiv, hmod]
  rw [if_neg (by omega), if_neg (by omega), if_pos hhi, if_pos ⟨hb, hi⟩]

theorem mapped_wide {p : Config.Params} {i j : Nat} (hi : i < p.nmax) (hj : j < 4) :
    mapped p (Target.offset (.wide i j)) = some (.wide i j) := by
  obtain ⟨-, hhi⟩ := wideOffset_in_wordMemory hi hj
  have hdiv : (Target.offset (.wide i j) - Config.wmemBase) / 16 = i := by
    simp only [Target.offset]
    omega
  have hmod : (Target.offset (.wide i j) - Config.wmemBase) % 16 / 4 = j := by
    simp only [Target.offset]
    omega
  have hlo : Config.wmemBase ≤ Target.offset (.wide i j) := by
    simp only [Target.offset]
    omega
  have hregions : Config.regBlockBytes ≤ Config.bankBase ∧ Config.bankBase ≤ Config.wmemBase ∧
    Config.bankBase + Config.bankSlots * Config.bankStride ≤ Config.wmemBase := by decide
  simp only [mapped, hdiv, hmod]
  rw [if_neg (by omega), if_neg (by omega), if_neg (by omega), if_neg (by omega), if_pos (by omega), if_pos hi]

theorem mapped_digits {p : Config.Params} {q : Nat} (hq : q < p.dcap / 4) :
    mapped p (Target.offset (.digits q)) = some (.digits q) := by
  have hdiv : (Target.offset (.digits q) - Config.dmemBase) / 4 = q := by
    simp only [Target.offset]
    omega
  have hlo : Config.dmemBase ≤ Target.offset (.digits q) := Nat.le_add_right _ _
  have hregions : Config.regBlockBytes ≤ Config.dmemBase ∧ Config.bankBase ≤ Config.dmemBase ∧
    Config.bankBase + Config.bankSlots * Config.bankStride ≤ Config.dmemBase ∧ Config.wmemBase ≤ Config.dmemBase ∧
    Config.wmemEnd ≤ Config.dmemBase := by decide
  simp only [mapped, hdiv]
  rw [if_neg (by omega), if_neg (by omega), if_neg (by omega), if_neg (by omega), if_neg (by omega),
    if_neg (by omega), if_pos hq]

theorem Target.offset_aligned (t : Target) : t.offset % 4 = 0 := by
  cases t with
  | reg r => cases r <;> decide
  | bank b i => simp only [Target.offset, Config.bankBase, Config.bankStride]; omega
  | wide i j => simp only [Target.offset, Config.wmemBase]; omega
  | digits q => simp only [Target.offset, Config.dmemBase]; omega

/-- Every target the core has is reached at its own offset. -/
theorem target_of_inCore {p : Config.Params} {t : Target} (h : t.InCore p) : target p 4 t.offset = some t := by
  cases t with
  | reg r => exact target_offset p r
  | bank b i => rw [target, if_pos ⟨rfl, Target.offset_aligned _⟩, mapped_bank h.1 h.2]
  | wide i j => rw [target, if_pos ⟨rfl, Target.offset_aligned _⟩, mapped_wide h.1 h.2]
  | digits q => rw [target, if_pos ⟨rfl, Target.offset_aligned _⟩, mapped_digits h]

/-- The map of R51 in both directions, with the width and the alignment of R53. -/
theorem target_eq_some_iff {p : Config.Params} {w a : Nat} {t : Target} :
    target p w a = some t ↔ w = 4 ∧ t.InCore p ∧ t.offset = a := by
  constructor
  · intro h
    have hmapped := mapped_of_target h
    unfold target at h
    split at h
    case isTrue hwa => exact ⟨hwa.1, offset_of_mapped hwa.2 hmapped⟩
    case isFalse => cases h
  · rintro ⟨rfl, ht, rfl⟩
    exact target_of_inCore ht

/-! ## The offsets of R20 and R51 -/

theorem mem_regOffsets_iff {a : Nat} : a ∈ regOffsets ↔ ∃ r : Reg, r.offset = a := by
  constructor
  · intro h
    have hoffsets : regOffsets = Reg.all.map Reg.offset := by decide
    obtain ⟨r, -, hr⟩ := List.mem_map.mp (hoffsets ▸ h)
    exact ⟨r, hr⟩
  · rintro ⟨r, rfl⟩
    cases r <;> decide

/-- The offsets of R20 and R51 are those of the targets the core has. -/
theorem reachableIn_iff {p : Config.Params} {a : Nat} : ReachableIn p a ↔ ∃ t : Target, t.InCore p ∧ t.offset = a := by
  constructor
  · rintro ⟨-, hreg | ⟨b, i, hb, hi, rfl⟩ | ⟨i, j, hi, hj, rfl⟩ | ⟨q, hq, rfl⟩⟩
    · obtain ⟨r, hr⟩ := mem_regOffsets_iff.mp hreg
      exact ⟨.reg r, trivial, hr⟩
    · exact ⟨.bank b i, ⟨hb, hi⟩, rfl⟩
    · exact ⟨.wide i j, ⟨hi, hj⟩, rfl⟩
    · exact ⟨.digits q, hq, rfl⟩
  · rintro ⟨t, ht, rfl⟩
    refine ⟨t.offset_aligned, ?_⟩
    cases t with
    | reg r => exact .inl (mem_regOffsets_iff.mpr ⟨r, rfl⟩)
    | bank b i => exact .inr (.inl ⟨b, i, ht.1, ht.2, rfl⟩)
    | wide i j => exact .inr (.inr (.inl ⟨i, j, ht.1, ht.2, rfl⟩))
    | digits q => exact .inr (.inr (.inr ⟨q, ht, rfl⟩))

theorem exists_target_iff {p : Config.Params} {w a : Nat} :
    (∃ t, target p w a = some t) ↔ w = 4 ∧ ReachableIn p a := by
  simp only [target_eq_some_iff, exists_and_left, reachableIn_iff]

theorem target_eq_none_iff {p : Config.Params} {w a : Nat} :
    target p w a = none ↔ ¬(w = 4 ∧ ReachableIn p a) := by
  rw [← exists_target_iff, Option.eq_none_iff_forall_ne_some, not_exists]

/-- With the parameters of R8 banks and wide memory leave no gap, and digit memory ends at 0x348002F. -/
theorem reachableIn_defaults (a : Nat) : ReachableIn Config.defaults a ↔ Reachable a := by
  have hbanks : Config.defaults.nbanks = 8 := rfl
  have hmax : Config.defaults.nmax = 524288 := by decide
  have hdigits : Config.defaults.dcap / 4 = 1179660 := by decide
  unfold ReachableIn Reachable
  rw [hbanks, hmax, hdigits]
  refine and_congr_right fun haligned => or_congr_right ?_
  constructor
  · rintro (⟨b, i, hb, hi, rfl⟩ | ⟨i, j, hi, hj, rfl⟩ | ⟨q, hq, rfl⟩)
    · exact .inl (by omega)
    · exact .inl (by omega)
    · exact .inr (by omega)
  · rintro (⟨hlo, hhi⟩ | ⟨hlo, hhi⟩)
    · by_cases hbank : a < 0x2000000
      · exact .inl ⟨(a - 0x1000000) / 0x200000, (a - 0x1000000) % 0x200000 / 4, by omega, by omega, by omega⟩
      · exact .inr (.inl ⟨(a - 0x2000000) / 16, (a - 0x2000000) % 16 / 4, by omega, by omega, by omega⟩)
    · exact .inr (.inr ⟨(a - 0x3000000) / 4, by omega, by omega⟩)

/-! ## The answer of a transaction -/

theorem State.response_read (s : State) {w a : Nat} {t : Target} (h : target s.params w a = some t) :
    s.response (.read w a) = (.okay, some (s.readTarget t)) := by simp [State.response, h]

theorem State.response_write (s : State) {w a : Nat} {t : Target} (v : Word) (h : target s.params w a = some t) :
    s.response (.write w a v) = (.okay, none) := by simp [State.response, h]

/-- Settles O37: the unmapped accesses are those at no target's offset, by `target_eq_none_iff`; the ranges of R51 by
`reachableIn_defaults`. -/
theorem busErrorsAreTheUnmappedAccesses : Obligations.BusErrorsAreTheUnmappedAccesses := by
  refine ⟨fun p w a => target_eq_none_iff, reachableIn_defaults, fun s w a v h => ?_, fun s w a v h => ?_⟩
  · have hnone := target_eq_none_iff.mpr h
    exact ⟨by simp [State.response, hnone], rfl, by simp [State.response, hnone], s.effect_write_unmapped v hnone⟩
  · obtain ⟨t, ht⟩ := exists_target_iff.mpr h
    exact ⟨by rw [s.response_read ht], s.response_write v ht⟩

end Sys2Proof.Machine
end

section
/-! Memory as the host reads and writes it: the 32-bit words of a bank, of wide memory and of digit memory. -/

namespace Sys2Proof.Machine

open Sys2Proof.Spec

/-! ## Parts of a number in memory -/

theorem State.readLE_add (s : State) (m n a : Nat) :
    s.readLE (m + n) a = s.readLE m a + 256 ^ m * s.readLE n (a + m) := by
  induction m generalizing a with
  | zero => simp [State.readLE]
  | succ m ih =>
    rw [show m + 1 + n = (m + n) + 1 by omega, State.readLE, State.readLE, ih, show a + 1 + m = a + (m + 1) by omega]
    ring

/-- `n` of the bytes of a longer number are the number in memory that starts at the first of them (R62). -/
theorem State.readLE_slice (s : State) {k m n : Nat} (a : Nat) (h : m + n ≤ k) :
    s.readLE k a / 256 ^ m % 256 ^ n = s.readLE n (a + m) := by
  obtain ⟨r, rfl⟩ := Nat.exists_eq_add_of_le h
  have hm := s.readLE_lt m a
  have hn := s.readLE_lt n (a + m)
  rw [Nat.add_assoc, State.readLE_add, State.readLE_add, Nat.add_mul_div_left _ _ (by positivity), Nat.div_eq_of_lt hm,
    Nat.zero_add, Nat.add_mul_mod_self_left, Nat.mod_eq_of_lt hn]

/-- A word of memory depends on its four bytes only. -/
theorem State.readWord_congr {s t : State} {a : Nat} (h : ∀ x, a ≤ x → x < a + 4 → t.readByte x = s.readByte x) :
    t.readWord a = s.readWord a := by
  rw [State.readWord, State.readWord, State.readLE_congr 4 h]

theorem State.readWord_writeWord_outside (s : State) {a c : Nat} (v : Word) (h : c + 4 ≤ a ∨ a + 4 ≤ c) :
    (s.writeWord a v).readWord c = s.readWord c :=
  State.readWord_congr fun _ _ _ => s.readByte_writeWord_outside v (by omega)

/-! ## Banks -/

theorem State.effect_write_bank (s : State) {b : BankIx} {i : Nat} (v : Word) (hb : HasBank s b)
    (hi : i < s.params.nmax) : s.effect (.write 4 (bankAddr b i) v) = s.writeWord (bankAddr b i) v :=
  s.effect_write v (target_of_inCore (t := .bank b i) ⟨hb, hi⟩)

/-- Settles O38: the bank's offset reaches the element, whose word is the four bytes there. -/
theorem bankAccessReadsAndWritesTheElement : Obligations.BankAccessReadsAndWritesTheElement := by
  intro s b i v hb hi
  have haddr : 0x1000000 + b.val * 0x200000 + 4 * i = bankAddr b i := rfl
  have ht : target s.params 4 (bankAddr b i) = some (.bank b i) := target_of_inCore (t := .bank b i) ⟨hb, hi⟩
  rw [haddr, s.effect_write_bank v hb hi]
  exact ⟨s.response_read ht, s.response_write v ht, rfl, s.readWord_writeWord _ v,
    fun a ha => s.readByte_writeWord_outside v ha⟩

/-! ## Wide memory -/

/-- Word `j` of a wide element is the word of memory at the element's offset plus 4 times `j` (R56). -/
theorem State.extract_wide (s : State) (i : Nat) {j : Nat} (hj : j < 4) :
    (s.wide i).extractLsb' (32 * j) 32 = s.readWord (Target.offset (.wide i j)) := by
  have hpow : 2 ^ (32 * j) = 256 ^ (4 * j) := by rw [show (256 : Nat) = 2 ^ 8 from rfl, ← pow_mul]; congr 1; omega
  have hslice := s.readLE_slice (k := 16) (m := 4 * j) (n := 4) (wideAddr i) (by omega)
  apply BitVec.eq_of_toNat_eq
  have hlt : s.readLE 16 (wideAddr i) < 2 ^ 128 := s.readLE_lt 16 _
  rw [BitVec.extractLsb'_toNat, Nat.shiftRight_eq_div_pow, State.wide, BitVec.toNat_ofNat, Nat.mod_eq_of_lt hlt, hpow,
    State.readWord, BitVec.toNat_ofNat, show Target.offset (.wide i j) = wideAddr i + 4 * j from rfl, ← hslice]
  exact (Nat.mod_mod _ _).symm

/-- Settles O39: each word of the element is the word of memory at its own offset, by `State.extract_wide`, and the other
elements and words lie apart from the one written. -/
theorem wideAccessIsLittleEndianByWord : Obligations.WideAccessIsLittleEndianByWord := by
  intro s i j v hi hj
  have haddr : 0x2000000 + 16 * i + 4 * j = Target.offset (.wide i j) := rfl
  have ht : target s.params 4 (Target.offset (.wide i j)) = some (.wide i j) :=
    target_of_inCore (t := .wide i j) ⟨hi, hj⟩
  have heffect : s.effect (.write 4 (Target.offset (.wide i j)) v) = s.writeWord (Target.offset (.wide i j)) v :=
    s.effect_write v ht
  rw [haddr, heffect, State.extract_wide _ i hj, State.extract_wide _ i hj]
  refine ⟨s.response_read ht, s.readWord_writeWord _ v, fun m hm hne => ?_, fun n hne => ?_, s.response_write v ht, rfl,
    fun a ha => s.readByte_writeWord_outside v ha⟩
  · rw [State.extract_wide _ i hm, State.extract_wide _ i hm]
    refine s.readWord_writeWord_outside v ?_
    simp only [Target.offset]
    omega
  · refine State.wide_congr fun x hlo hhi => s.readByte_writeWord_outside v ?_
    simp only [Target.offset, wideAddr] at *
    omega

/-! ## Digit memory -/

theorem toNat_append_eq_add {m n : Nat} (x : BitVec m) (y : BitVec n) : (x ++ y).toNat = x.toNat * 2 ^ n + y.toNat := by
  rw [BitVec.toNat_append, ← Nat.shiftLeft_add_eq_or_of_lt y.isLt, Nat.shiftLeft_eq]

/-- A word of memory is its four bytes, the lowest offset in the lowest byte (R57, R62). -/
theorem State.readWord_eq_append (s : State) (a : Nat) :
    s.readWord a = s.readByte (a + 3) ++ s.readByte (a + 2) ++ s.readByte (a + 1) ++ s.readByte a := by
  have hlt : s.readLE 4 a < 2 ^ 32 := s.readLE_lt 4 a
  apply BitVec.eq_of_toNat_eq
  rw [State.readWord, BitVec.toNat_ofNat, Nat.mod_eq_of_lt hlt, toNat_append_eq_add, toNat_append_eq_add,
    toNat_append_eq_add]
  simp only [State.readLE, Nat.add_assoc, Nat.reduceAdd]
  omega

/-- Settles O40: a digit's offset is its own byte's, and writes to digit memory do nothing. -/
theorem digitAccessIsReadOnlyLittleEndian : Obligations.DigitAccessIsReadOnlyLittleEndian := by
  intro s q v hq
  have haddr : 0x3000000 + 4 * q = Target.offset (.digits q) := rfl
  have ht : target s.params 4 (Target.offset (.digits q)) = some (.digits q) := target_of_inCore (t := .digits q) hq
  rw [haddr]
  refine ⟨?_, s.response_write v ht, s.effect_write v ht⟩
  rw [s.response_read ht, State.readTarget, State.readWord_eq_append]
  rfl

/-! ## The pseudo-operations LOADBANK and SETMOD -/

/-- LOADBANK of a list with one more word writes one more element. -/
theorem loadBank_concat (b : BankIx) (vs : List Word) (v : Word) :
    (HostOp.loadBank b (vs ++ [v])).txs = (HostOp.loadBank b vs).txs ++ [.write 4 (bankAddr b vs.length) v] :=
  List.mapIdx_concat

theorem foldl_effect_params (s : State) (txs : List Tx) : (txs.foldl State.effect s).params = s.params := by
  induction txs generalizing s with
  | nil => rfl
  | cons tx txs ih => rw [List.foldl_cons, ih, State.effect_params]

/-- Every loaded element is the last write to its offset: later ones go to higher offsets. -/
theorem bank_loadBank {s : State} {b : BankIx} (hb : HasBank s b) (vs : List Word) (hlen : vs.length ≤ s.params.nmax)
    {i : Nat} (hi : i < vs.length) : (((HostOp.loadBank b vs).txs).foldl State.effect s).bank b i = vs[i] := by
  induction vs using List.reverseRecOn with
  | nil => cases hi
  | append_singleton vs v ih =>
    rw [List.length_append, List.length_singleton] at hlen hi
    have hparams := foldl_effect_params s (HostOp.loadBank b vs).txs
    rw [loadBank_concat, List.foldl_append, List.foldl_cons, List.foldl_nil,
      State.effect_write_bank _ v (by rwa [HasBank, hparams]) (by rw [hparams]; omega)]
    obtain hlast | hbefore := Nat.eq_or_lt_of_le (Nat.le_of_lt_succ hi)
    · subst hlast
      rw [List.getElem_concat_length rfl]
      exact State.readWord_writeWord _ _ v
    · rw [List.getElem_append_left hbefore, ← ih (by omega) hbefore]
      refine State.readWord_writeWord_outside _ v (.inl ?_)
      simp only [bankAddr]
      omega

/-- SETMOD writes the descriptor's two registers, P first (R82). -/
theorem effect_setMod (s : State) {k : Nat} (p g : Word) {rp rg : Reg} (hp : rp.offset = 0x020 + 8 * k)
    (hg : rg.offset = 0x024 + 8 * k) :
    ((HostOp.setMod k p g).txs).foldl State.effect s = (s.writeReg p rp).writeReg g rg := by
  rw [HostOp.txs, ← hp, ← hg, List.foldl_cons, List.foldl_cons, List.foldl_nil, State.effect_write_reg,
    State.effect_write_reg]

/-- Settles O48: LOADBANK by `bank_loadBank`, each SETMOD by `effect_setMod`. -/
theorem hostPseudoOperationsLoadTheirTargets : Obligations.HostPseudoOperationsLoadTheirTargets :=
  ⟨fun _ _ vs hb hlen _ hi => bank_loadBank hb vs hlen hi, fun s p g =>
    ⟨effect_setMod (rp := .modP0) (rg := .modG0) s p g rfl rfl, effect_setMod (rp := .modP1) (rg := .modG1) s p g rfl rfl,
      effect_setMod (rp := .modP2) (rg := .modG2) s p g rfl rfl⟩⟩

end Sys2Proof.Machine
end

section
/-! Writes of the host, register by register: the read-only registers and reserved fields, and what a write that is neither
to CMD nor to STATUS leaves alone. -/

namespace Sys2Proof.Machine

open Sys2Proof.Spec

/-! ## What ignores a write -/

theorem State.writeReg_readOnly {r : Reg} (hr : r ∈ [Reg.params, Reg.sr, Reg.dlen, Reg.dcount]) (s : State) (v : Word) :
    s.writeReg v r = s := by
  simp only [List.mem_cons, List.not_mem_nil, or_false] at hr
  rcases hr with rfl | rfl | rfl | rfl <;> rfl

/-- CTRL reads back bit 0 of what is written to it (R22). -/
theorem ctrlWord_getLsbD (v : Word) : ctrlWord (v.getLsbD 0) = v &&& 1 := by
  have hand : (v &&& 1).toNat = v.toNat % 2 := by rw [BitVec.toNat_and]; exact Nat.and_one_is_mod _
  apply BitVec.eq_of_toNat_eq
  rw [hand, getLsbD_eq_decide, pow_zero, Nat.div_one]
  obtain h | h := Nat.mod_two_eq_zero_or_one v.toNat <;> rw [h] <;> rfl

/-- A write of 0 to the bits that clear changes nothing (R174). -/
theorem Status.clear_of_zeros {v : Word} (st : Status) (h1 : v.getLsbD 1 = false) (h2 : v.getLsbD 2 = false) :
    st.clear v = st := by
  rw [Status.clear, h1, h2]
  simp

/-- Settles O41: each offset is a register's, and its write is `State.writeReg`. -/
theorem readOnlyRegistersIgnoreWrites : Obligations.ReadOnlyRegistersIgnoreWrites := by
  refine ⟨fun s a v ha => ?_, fun s v => ?_, fun s v h1 h2 => ?_⟩
  · obtain ⟨r, hr, rfl⟩ : ∃ r ∈ [Reg.params, Reg.sr, Reg.dlen, Reg.dcount], r.offset = a := by
      obtain rfl | rfl | rfl | rfl := ha <;> simp [Reg.offset]
    exact ⟨s.response_write_reg r v, (s.effect_write_reg r v).trans (s.writeReg_readOnly hr v)⟩
  · have heffect := s.effect_write_reg .ctrl v
    refine ⟨s.response_write_reg .ctrl v, heffect, ?_⟩
    show (s.effect (.write 4 Reg.ctrl.offset v)).response (.read 4 Reg.ctrl.offset) = _
    rw [heffect, State.response_read_reg, ← ctrlWord_getLsbD]
    rfl
  · refine ⟨s.response_write_reg .status v, (s.effect_write_reg .status v).trans ?_⟩
    rw [State.writeReg, State.clearStatus, s.status.clear_of_zeros h1 h2]

/-! ## What a write leaves alone -/

theorem State.writeReg_cmd (s : State) (v : Word) {r : Reg} (h : r ≠ .cmd) : (s.writeReg v r).cmd = s.cmd := by
  cases r
  case cmd => exact absurd rfl h
  all_goals rfl

/-- A register write but CMD's and STATUS's changes what no other register reads. -/
theorem State.readReg_writeReg_other (s : State) (v : Word) {r q : Reg} (hcmd : r ≠ .cmd) (hstatus : r ≠ .status)
    (hq : q ≠ r) : (s.writeReg v r).readReg q = s.readReg q := by
  by_cases hstored : r ∈ [Reg.sa, Reg.sb, Reg.modP0, Reg.modG0, Reg.modP1, Reg.modG1, Reg.modP2, Reg.modG2]
  · rw [State.readReg_writeReg hstored, if_neg hq]
  · by_cases hro : r ∈ [Reg.params, Reg.sr, Reg.dlen, Reg.dcount]
    · rw [State.writeReg_readOnly hro]
    · obtain rfl : r = .ctrl := by cases r <;> simp_all
      cases q
      case ctrl => exact absurd rfl hq
      all_goals rfl

/-- A write is ignored, or is the write of the register at its offset, or replaces the word of a bank or of wide memory at
its offset. -/
theorem State.effect_write_cases (s : State) (w a : Nat) (v : Word) :
    s.effect (.write w a v) = s ∨ (∃ r : Reg, r.offset = a ∧ s.effect (.write w a v) = s.writeReg v r) ∨
      (Config.bankBase ≤ a ∧ s.effect (.write w a v) = s.writeWord a v) := by
  cases ht : target s.params w a with
  | none => exact .inl (s.effect_write_unmapped v ht)
  | some t =>
    obtain ⟨rfl, hin, rfl⟩ := target_eq_some_iff.mp ht
    rw [s.effect_write v ht]
    cases t with
    | reg r => exact .inr (.inl ⟨r, rfl, rfl⟩)
    | bank b i => exact .inr (.inr ⟨(bankOffset_in_wordMemory hin.1 hin.2).1, rfl⟩)
    | wide i j => exact .inr (.inr ⟨(wideOffset_in_wordMemory hin.1 hin.2).1, rfl⟩)
    | digits q => exact .inl rfl

theorem not_mem_regOffsets_of_bankBase_le {a : Nat} (h : Config.bankBase ≤ a) : a ∉ regOffsets := by
  have hbelow : ∀ x ∈ regOffsets, x < Config.bankBase := by decide
  exact fun ha => Nat.not_le.mpr (hbelow a ha) h

/-- Settles O43: a read is only answered; a write but CMD's and STATUS's is one of the three of
`State.effect_write_cases`, and no write changes a result (`State.effect_sameResults`). -/
theorem onlyCmdAndStatusWritesHaveSideEffects : Obligations.OnlyCmdAndStatusWritesHaveSideEffects := by
  refine ⟨fun s h w a => ⟨rfl, rfl⟩, fun s v => ?_, fun s w a v hcmd hstatus => ?_⟩
  · rw [show (0x00C : Nat) = Reg.cmd.offset from rfl, show (0x008 : Nat) = Reg.status.offset from rfl,
      s.effect_write_reg .cmd v, s.effect_write_reg .status 6]
    refine ⟨rfl, rfl, ?_⟩
    simp [State.writeReg, Status.clear]
  · obtain ⟨hsr, hdlen, hdcount, hbytes⟩ := s.effect_sameResults (.write w a v)
    have hdigits : ∀ k, (s.effect (.write w a v)).digit k = s.digit k := fun k => hbytes _ (Nat.le_add_right _ _)
    obtain hs | ⟨r, rfl, hs⟩ | ⟨hlo, hs⟩ := s.effect_write_cases w a v <;> rw [hs] at hsr hdlen hdcount hdigits ⊢
    · exact ⟨rfl, rfl, hsr, hdlen, hdcount, hdigits, fun _ _ => rfl, fun _ => rfl, fun _ => rfl, fun _ _ => rfl⟩
    · have hrcmd : r ≠ .cmd := fun h => hcmd (h ▸ rfl)
      have hrstatus : r ≠ .status := fun h => hstatus (h ▸ rfl)
      exact ⟨s.writeReg_status v r hrcmd hrstatus, s.writeReg_cmd v hrcmd, hsr, hdlen, hdcount, hdigits,
        fun q hq => s.readReg_writeReg_other v hrcmd hrstatus fun h => hq (h ▸ rfl), fun _ => s.writeReg_mem v r,
        fun h => absurd (mem_regOffsets_iff.mpr ⟨r, rfl⟩) h,
        fun x _ => State.readByte_congr (by rw [s.writeReg_mem]) (s.writeReg_epoch v r)⟩
    · exact ⟨rfl, rfl, hsr, hdlen, hdcount, hdigits, fun q _ => by cases q <;> rfl,
        fun h => absurd h (not_mem_regOffsets_of_bankBase_le hlo), fun _ => rfl,
        fun x hx => s.readByte_writeWord_outside v hx⟩

end Sys2Proof.Machine
end

section
/-! Held transactions (R60, R61): which they are, and that a command and a transaction neither see nor change what is held,
what is still to come or what was answered, so that the held transaction is performed on the state the command left. -/

namespace Sys2Proof.Machine

open Sys2Proof.Spec

/-! ## What R60 excepts -/

/-- A target that is no register lies past the register block, and R60 excepts none of its transactions. -/
theorem Target.reg_or_memory (t : Target) :
    (∃ r, t = .reg r) ∨ (Config.bankBase ≤ t.offset ∧ t.readableWhileBusy = false ∧ t.writableWhileBusy = false) := by
  have hregions : Config.bankBase ≤ Config.wmemBase ∧ Config.bankBase ≤ Config.dmemBase := by decide
  cases t with
  | reg r => exact .inl ⟨r, rfl⟩
  | bank b i => exact .inr ⟨by simp only [offset]; omega, rfl, rfl⟩
  | wide i j => exact .inr ⟨by simp only [offset]; omega, rfl, rfl⟩
  | digits q => exact .inr ⟨by simp only [offset]; omega, rfl, rfl⟩

theorem Target.readableWhileBusy_iff (t : Target) :
    t.readableWhileBusy = true ↔ t.offset = 0x000 ∨ t.offset = 0x004 ∨ t.offset = 0x008 ∨ t.offset = 0x00C := by
  obtain ⟨r, rfl⟩ | ⟨hlo, hread, -⟩ := t.reg_or_memory
  · cases r <;> decide
  · simp only [hread, Config.bankBase, Bool.false_eq_true, false_iff] at *
    omega

theorem Target.writableWhileBusy_iff (t : Target) :
    t.writableWhileBusy = true ↔ t.offset = 0x004 ∨ t.offset = 0x008 := by
  obtain ⟨r, rfl⟩ | ⟨hlo, -, hwrite⟩ := t.reg_or_memory
  · cases r <;> decide
  · simp only [hwrite, Config.bankBase, Bool.false_eq_true, false_iff] at *
    omega

/-- The held transactions are those answered OKAY that R60 does not except. -/
theorem isHeld_iff (s : State) (tx : Tx) :
    tx.isHeld s.params = true ↔ (s.response tx).1 = .okay ∧ ¬AnsweredWhileBusy tx := by
  cases tx with
  | read w a =>
    cases ht : target s.params w a with
    | none => simp [Tx.isHeld, State.response, ht]
    | some t =>
      obtain ⟨rfl, -, rfl⟩ := target_eq_some_iff.mp ht
      simp [Tx.isHeld, s.response_read ht, ht, AnsweredWhileBusy, ← t.readableWhileBusy_iff]
  | write w a v =>
    cases ht : target s.params w a with
    | none => simp [Tx.isHeld, State.response, ht]
    | some t =>
      obtain ⟨rfl, -, rfl⟩ := target_eq_some_iff.mp ht
      simp [Tx.isHeld, s.response_write v ht, ht, AnsweredWhileBusy, ← t.writableWhileBusy_iff]

/-- Everything a transaction R60 excepts can do, to any core with the same parameters: nothing, or a write of CTRL or of
STATUS. -/
theorem effect_cases_of_not_held {p : Config.Params} {tx : Tx} (h : tx.isHeld p = false) :
    (∀ s : State, s.params = p → s.effect tx = s) ∨
      ∃ v r, (r = .ctrl ∨ r = .status) ∧ ∀ s : State, s.params = p → s.effect tx = s.writeReg v r := by
  cases tx with
  | read w a => exact .inl fun _ _ => rfl
  | write w a v =>
    cases ht : target p w a with
    | none => exact .inl fun s hp => s.effect_write_unmapped v (hp ▸ ht)
    | some t =>
      have hwritable : t.writableWhileBusy = true := by simpa [Tx.isHeld, ht] using h
      obtain ⟨r, rfl⟩ | ⟨-, -, hnot⟩ := t.reg_or_memory
      · exact .inr ⟨v, r, by simpa [Target.writableWhileBusy] using hwritable,
          fun s hp => s.effect_write v (hp ▸ ht)⟩
      · exact absurd hwritable (by simp [hnot])

/-! ## What does not see what is held and what is to come -/

/-- A state with other transactions held and other inputs to come. -/
def State.withQueues (s : State) (held : List Issue) (inputs : List Input) : State :=
  { s with held := held, inputs := inputs }

/-- A state with another latency left. -/
def State.withWait (s : State) (wait : Nat) : State := { s with wait := wait }

/-- No transaction depends on what is held or to come. -/
theorem State.effect_withQueues (s : State) (tx : Tx) (held : List Issue) (inputs : List Input) :
    (s.withQueues held inputs).effect tx = (s.effect tx).withQueues held inputs := by
  cases tx with
  | read w a => rfl
  | write w a v =>
    cases ht : target s.params w a with
    | none => rw [s.effect_write_unmapped v ht, State.effect_write_unmapped (s.withQueues held inputs) v ht]
    | some t =>
      rw [s.effect_write v ht, State.effect_write (s.withQueues held inputs) v ht]
      cases t with
      | reg r => cases r <;> rfl
      | bank b i => rfl
      | wide i j => rfl
      | digits q => rfl

/-- A transaction that R60 excepts does not depend on the latency that is left either. -/
theorem State.effect_withWait {s : State} {tx : Tx} (h : tx.isHeld s.params = false) (wait : Nat) :
    (s.withWait wait).effect tx = (s.effect tx).withWait wait := by
  obtain hs | ⟨v, r, hr, hs⟩ := effect_cases_of_not_held h <;> rw [hs s rfl, hs (s.withWait wait) rfl]
  obtain rfl | rfl := hr <;> rfl

/-- What a transaction is answered when it is performed in a state (R52). -/
def State.answerTo (s : State) (q : Issue) : Answer := ⟨q.host, q.tx, (s.response q.tx).1, (s.response q.tx).2⟩

/-- A performed transaction is its effect, with its answer in front of the earlier ones. -/
theorem perform_eq_answered (s : State) (q : Issue) :
    s.perform q = { s.effect q.tx with
      answers := s.answerTo q :: s.answers } := by
  obtain ⟨-, -, hanswers, -⟩ := s.effect_keeps q.tx
  rw [State.perform_eq, hanswers]
  rfl

theorem State.perform_withQueues (s : State) (q : Issue) (held : List Issue) (inputs : List Input) :
    (s.withQueues held inputs).perform q = (s.perform q).withQueues held inputs := by
  rw [State.perform_eq, State.effect_withQueues]
  rfl

theorem State.perform_withWait {s : State} {q : Issue} (h : q.tx.isHeld s.params = false) (wait : Nat) :
    (s.withWait wait).perform q = (s.perform q).withWait wait := by
  rw [State.perform_eq, State.effect_withWait h]
  rfl

/-- No command depends on what is held, on what is to come or on the latency that is left. -/
theorem exec_withQueues {i : Instr} {s t : State} (h : exec i s = .next t) (held : List Issue) (inputs : List Input)
    (wait : Nat) :
    exec i ((s.withQueues held inputs).withWait wait) = .next ((t.withQueues held inputs).withWait wait) := by
  have hchecks : checksOf i ((s.withQueues held inputs).withWait wait) = checksOf i s := by cases i <;> rfl
  have hwrite : writeOf i ((s.withQueues held inputs).withWait wait) =
      ((writeOf i s).withQueues held inputs).withWait wait := by cases i <;> rfl
  obtain ⟨e, he, hs⟩ | ⟨hc, hs⟩ := exec_cases i s <;> cases hs.symm.trans h
  · exact exec_error (by rw [hchecks, he])
  · rw [exec_ok (by rw [hchecks, hc]), hwrite]
    rfl

/-! ## A transaction that arrives while a command runs -/

/-- A transaction R60 holds that arrives while a command runs is held, and nothing else changes (R61). -/
theorem step_busy_holds {s : State} {q : Issue} {rest : List Input} {k : Nat} (hb : s.status.busy = true)
    (hw : s.wait = k + 1) (hi : s.inputs = .issue q :: rest) (hwait : s.isWaiting q.host = false)
    (hfault : s.hostAtFault q.host = false) (hheld : q.tx.isHeld s.params = true) :
    step s = .next { s with inputs := rest, wait := k, held := s.held ++ [q] } := by
  rw [step_busy_input hb hi hw]
  simp [takeWhileBusy, hwait, hfault, hheld]

/-- An excepted transaction leaves the pending command, memory and what is held as they are. -/
theorem effect_keeps_command {s : State} {tx : Tx} (h : tx.isHeld s.params = false) :
    (s.effect tx).status.busy = s.status.busy ∧ (s.effect tx).cmd = s.cmd ∧ (s.effect tx).mem = s.mem ∧
      (s.effect tx).held = s.held := by
  obtain hs | ⟨v, r, hr, hs⟩ := effect_cases_of_not_held h <;> rw [hs s rfl]
  · exact ⟨rfl, rfl, rfl, rfl⟩
  · obtain rfl | rfl := hr <;> exact ⟨rfl, rfl, rfl, rfl⟩

/-- An excepted transaction that arrives while a command runs is performed, and the command runs on (R60). -/
theorem step_busy_excepted_eq {s : State} {q : Issue} {rest : List Input} {k : Nat} (hb : s.status.busy = true)
    (hw : s.wait = k + 1) (hi : s.inputs = .issue q :: rest) (hwait : s.isWaiting q.host = false)
    (hfault : s.hostAtFault q.host = false) (hfree : q.tx.isHeld s.params = false) :
    ∃ t, step s = .next t ∧
      t = { s.effect q.tx with
        inputs := rest
        wait := k
        answers := s.answerTo q :: s.answers } ∧
      t.status.busy = true ∧ t.cmd = s.cmd ∧ t.mem = s.mem ∧ t.held = s.held := by
  obtain ⟨hbusy, hcmd, hmem, hheld⟩ := effect_keeps_command hfree
  refine ⟨_, ?_, rfl, hbusy.trans hb, hcmd, hmem, hheld⟩
  rw [step_busy_excepted hb hw hi hwait hfault hfree]
  show Host.Outcome.next (((s.withQueues s.held rest).withWait k).perform q) = _
  rw [State.perform_withWait (s := s.withQueues s.held rest) hfree, State.perform_withQueues, perform_eq_answered, ← hheld]
  rfl

/-- Settles O49: which are held by `isHeld_iff`, and the two kinds of arrival by `step_busy_holds` and
`step_busy_excepted_eq`. -/
theorem busyCoreHoldsTransactions : Obligations.BusyCoreHoldsTransactions :=
  ⟨isHeld_iff, fun _ _ _ _ hb hw hi hwait hfault => step_busy_holds hb hw hi hwait hfault,
    fun _ _ _ _ hb hw hi hwait hfault => step_busy_excepted_eq hb hw hi hwait hfault⟩

/-! ## The steps of an idle core -/

/-- An idle core performs the oldest held transaction (R60, R168, log 5). -/
theorem step_idle_performs_held {s : State} {q : Issue} {rest : List Issue} (hb : s.status.busy = false)
    (hh : s.held = q :: rest) :
    step s = .next { s.effect q.tx with
      held := rest
      answers := s.answerTo q :: s.answers } := by
  obtain ⟨-, hinputs, -⟩ := s.effect_keeps q.tx
  rw [step_idle_held hb hh]
  show Host.Outcome.next ((s.withQueues rest s.inputs).perform q) = _
  rw [State.perform_withQueues, perform_eq_answered, ← hinputs]
  rfl

/-- An idle core with nothing held performs the next input of a host that is not at fault (R65). -/
theorem step_idle_performs_input {s : State} {q : Issue} {rest : List Input} (hb : s.status.busy = false)
    (hh : s.held = []) (hi : s.inputs = .issue q :: rest) (hfault : s.hostAtFault q.host = false) :
    step s = .next { s.effect q.tx with
      inputs := rest
      answers := s.answerTo q :: s.answers } := by
  obtain ⟨hheld, -⟩ := s.effect_keeps q.tx
  rw [step_idle_input hb hh hi, takeWhileIdle, if_neg (by simp [hfault])]
  show Host.Outcome.next ((s.withQueues s.held rest).perform q) = _
  rw [State.perform_withQueues, perform_eq_answered, ← hheld]
  rfl

/-! ## The step after a completion -/

theorem run_succ {s t : State} (h : step s = .next t) (k : Nat) :
    Host.Core.run Sys2Proof.core (k + 1) s = Host.Core.run Sys2Proof.core k t := by
  simp only [Host.Core.run, show Sys2Proof.core.step s = .next t from h]

/-- A command leaves the core idle, with the held transactions, the inputs and the answers as they were. -/
theorem exec_keeps {i : Instr} {s t : State} (h : exec i s = .next t) :
    t.status.busy = false ∧ t.held = s.held ∧ t.inputs = s.inputs ∧ t.answers = s.answers := by
  have hframe := exec_frame h
  refine ⟨?_, by rw [hframe], by rw [hframe], by rw [hframe]⟩
  obtain ⟨e, -, hs⟩ | ⟨-, hs⟩ := exec_cases i s <;> cases hs.symm.trans h <;> simp

theorem step_completes {s t : State} {i : Instr} (hb : s.status.busy = true) (hw : s.wait = 0 ∨ s.inputs = [])
    (hd : decode s.cmd = .ok i) (ht : exec i s = .next t) : step s = .next t := by
  rw [step_busy_last hb hw, complete_ok hd, ht]

/-- The completing step and the one that performs the oldest held transaction on the state the command left (R60). -/
theorem run_complete_held {s t : State} {i : Instr} {q : Issue} {rest : List Issue} (hb : s.status.busy = true)
    (hw : s.wait = 0 ∨ s.inputs = []) (hh : s.held = q :: rest) (hd : decode s.cmd = .ok i)
    (ht : exec i s = .next t) :
    Host.Core.run Sys2Proof.core 2 s =
      .next { t.effect q.tx with
        held := rest
        answers := t.answerTo q :: s.answers } := by
  obtain ⟨hidle, hheld, -, hanswers⟩ := exec_keeps ht
  rw [run_succ (step_completes hb hw hd ht), run_succ (step_idle_performs_held hidle (hheld.trans hh)), hanswers]
  rfl

/-- Settles O58, by `run_complete_held` and the steps of an idle core. -/
theorem heldTransactionsArePerformedNext : Obligations.HeldTransactionsArePerformedNext :=
  ⟨fun _ _ _ _ _ hb hw hh hd ht => run_complete_held hb hw hh hd ht, fun _ _ _ hb hh => step_idle_performs_held hb hh,
    fun _ _ _ hb hh hi hfault => step_idle_performs_input hb hh hi hfault,
    fun _ hb hh hi => step_idle_nothing hb hh hi⟩

/-- Settles O51: the held write of CMD is performed on the state the first command left, and a write of CMD accepts. -/
theorem heldCommandIsAcceptedNext : Obligations.HeldCommandIsAcceptedNext := by
  intro s t u i h v hb hw hh hd ht hrun
  cases (run_complete_held hb (.inl hw) hh hd ht).symm.trans hrun
  have haccept : t.effect (.write 4 0x00C v) = t.accept v := t.effect_write_reg .cmd v
  rw [haccept]
  exact ⟨rfl, rfl, rfl, rfl, rfl, rfl, rfl⟩

theorem response_read_sr (s : State) : s.response (.read 4 0x018) = (.okay, some s.sr) := s.response_read_reg .sr

theorem answerTo_read_sr (s : State) (h : Nat) :
    s.answerTo ⟨h, .read 4 0x018⟩ = ⟨h, .read 4 0x018, .okay, some s.sr⟩ := by
  rw [State.answerTo, response_read_sr]

/-- Settles O50. The command completes before the read arrives, which an idle core then performs; or the read is held and
performed after the completion. -/
theorem heldReadSeesTheResult : Obligations.HeldReadSeesTheResult := by
  intro s t i h hb hh hi hfault hd ht
  cases hw : s.wait with
  | zero =>
    obtain ⟨hidle, hheld, hinputs, hanswers⟩ := exec_keeps ht
    have hfault' : t.hostAtFault h = false := by rw [State.hostAtFault, hanswers]; exact hfault
    have hread := step_idle_performs_input hidle (hheld.trans hh) (hinputs.trans hi) hfault'
    refine ⟨2, _, by decide, (run_succ (step_completes hb (.inl hw) hd ht) 1).trans (run_succ hread 0), rfl, rfl, rfl, ?_⟩
    simp only [answerTo_read_sr, hanswers]
  | succ k =>
    have hwaiting : s.isWaiting h = false := by rw [State.isWaiting, hh]; rfl
    have hisHeld : (Tx.read 4 0x018).isHeld s.params = true :=
      (isHeld_iff s _).mpr ⟨by rw [response_read_sr], by simp [AnsweredWhileBusy]⟩
    have hholds := step_busy_holds hb hw hi hwaiting hfault hisHeld
    rw [hh] at hholds
    have hperformed := run_complete_held (s := (s.withQueues [⟨h, .read 4 0x018⟩] []).withWait k) hb (.inr rfl) rfl hd
      (exec_withQueues ht [⟨h, .read 4 0x018⟩] [] k)
    refine ⟨3, _, by decide, (run_succ hholds 2).trans hperformed, rfl, rfl, rfl, ?_⟩
    simp only [answerTo_read_sr]
    rfl

end Sys2Proof.Machine
end

section
/-! The command word (R70 to R83): its fields and operands, everything the decoder accepts, and that decoding and encoding
are inverse. -/

namespace Sys2Proof

open Sys2Proof.Machine Sys2Proof.Spec

/-! ## Fields of a word -/

theorem Field.get_lt (f : Field) (w : Word) : f.get w < 2 ^ f.width := Nat.mod_lt _ (Nat.two_pow_pos _)

/-- A field is the bits from its lowest to its highest (R10, R71). -/
theorem Field.get_eq_bits (f : Field) (w : Word) : f.get w = bits w (f.lo + f.width - 1) f.lo := by
  rw [bits_eq]
  cases f <;> rfl

/-- A word is the sum of its fields at their places (R71, R83). -/
theorem encodeFields_get {w : Word} (hrsv : Field.get .rsv w = 0) :
    encodeFields (Field.get .op w) (Field.get .msel w) (Field.get .log2n w) (Field.get .ba w) (Field.get .bb w)
      (Field.get .bc w) (Field.get .dig w) (Field.get .w w) = w := by
  apply BitVec.eq_of_toNat_eq
  have hw := w.isLt
  simp only [Field.get, Field.lo, Field.width, encodeFields, BitVec.toNat_ofNat] at hrsv ⊢
  omega

/-! ## Operands of a word as terms -/

theorem mselOf_val (w : Word) : (mselOf w).val = Field.get .msel w := Nat.mod_eq_of_lt (Field.get_lt .msel w)

theorem log2nOf_val (w : Word) : (log2nOf w).val = Field.get .log2n w := Nat.mod_eq_of_lt (Field.get_lt .log2n w)

/-- All three bank fields are 3 bits wide. -/
theorem bankOf_val {f : Field} (hf : f.width = 3) (w : Word) : (bankOf f w).val = f.get w :=
  Nat.mod_eq_of_lt (by simpa [hf] using f.get_lt w)

theorem digOf_val (w : Word) : (digOf w).val = Field.get .dig w := Nat.mod_eq_of_lt (Field.get_lt .dig w)

theorem wOf_toNat (w : Word) : (wOf w).toNat = Field.get .w w := by
  have hlt : Field.get .w w < 2 := Field.get_lt .w w
  unfold wOf
  interval_cases Field.get .w w <;> rfl

/-! ## The decoder -/

@[simp] theorem opcode_build (o : Opcode) (w : Word) : (o.build w).opcode = o := by cases o <;> rfl

theorem Opcode.ofCode_eq_some_iff {n : Nat} {o : Opcode} : Opcode.ofCode n = some o ↔ n = o.code := by
  constructor
  · intro h
    unfold Opcode.ofCode at h
    split at h <;> cases h <;> rfl
  · rintro rfl
    cases o <;> rfl

theorem Opcode.code_injective : Function.Injective Opcode.code := fun _ _ h =>
  Option.some.inj ((Opcode.ofCode_eq_some_iff.mpr rfl).symm.trans (Opcode.ofCode_eq_some_iff.mpr h))

/-- An opcode decodes a word exactly when the fields it does not use are 0 and the command built is well-formed (R73). -/
theorem Opcode.decode_eq_ok_iff {o : Opcode} {w : Word} {i : Instr} :
    o.decode w = .ok i ↔ (∀ f ∈ o.mustBeZero, f.get w = 0) ∧ o.build w = i ∧ i.wf = true := by
  unfold Opcode.decode
  split
  next f hf =>
    have hbad : f ∈ o.mustBeZero ∧ f.get w ≠ 0 := ⟨List.mem_of_find?_eq_some hf, by simpa using List.find?_some hf⟩
    exact iff_of_false (by simp) fun h => hbad.2 (h.1 f hbad.1)
  next hnone =>
    have hzero : ∀ f ∈ o.mustBeZero, f.get w = 0 := by simpa using hnone
    refine Iff.trans ?_ (and_iff_right hzero).symm
    dsimp only
    split
    next hwf => exact ⟨fun h => ⟨Except.ok.inj h, Except.ok.inj h ▸ hwf⟩, fun h => congrArg _ h.1⟩
    next hwf => exact iff_of_false (by simp) fun h => hwf (h.1 ▸ h.2)

/-- Everything the decoder accepts (R73). -/
theorem decode_eq_ok_iff {w : Word} {i : Instr} :
    decode w = .ok i ↔ ∃ o : Opcode, Field.get .op w = o.code ∧ (∀ f ∈ o.mustBeZero, f.get w = 0) ∧ o.build w = i ∧
      i.wf = true := by
  unfold decode
  split
  next hnone =>
    exact iff_of_false (by simp) fun ⟨o, ho, _⟩ => by simp [Opcode.ofCode_eq_some_iff.mpr ho] at hnone
  next o ho =>
    rw [Opcode.decode_eq_ok_iff]
    constructor
    · exact fun h => ⟨o, Opcode.ofCode_eq_some_iff.mp ho, h⟩
    · rintro ⟨o', ho', h⟩
      cases ho.symm.trans (Opcode.ofCode_eq_some_iff.mpr ho')
      exact h

/-- A word of an assigned opcode decodes exactly when its unused fields are 0 and its operands are well-formed (R73). -/
theorem exists_decode_eq_ok_iff {o : Opcode} {w : Word} (hop : Field.get .op w = o.code) :
    (∃ i, decode w = .ok i) ↔ (∀ f ∈ o.mustBeZero, f.get w = 0) ∧ (o.build w).wf = true := by
  constructor
  · rintro ⟨i, hd⟩
    obtain ⟨o', hop', hzero, rfl, hwf⟩ := decode_eq_ok_iff.mp hd
    cases Opcode.code_injective (hop'.symm.trans hop)
    exact ⟨hzero, hwf⟩
  · rintro ⟨hzero, hwf⟩
    exact ⟨_, decode_eq_ok_iff.mpr ⟨o, hop, hzero, rfl, hwf⟩⟩

/-! ## Encoding and decoding are inverse -/

/-- OP of a command's word is its opcode, and the fields it does not use are 0 (R73). -/
theorem fields_encode (i : Instr) : Laws.Fields.Statement i := by
  cases i with
  | mulmod k => exact Laws.Fields.mulmod k
  | powmod k => exact Laws.Fields.powmod k
  | invmod k => exact Laws.Fields.invmod k
  | nttf k l a => exact Laws.Fields.nttf k l a
  | ntti k l a => exact Laws.Fields.ntti k l a
  | pmul k l a b => exact Laws.Fields.pmul k l a b
  | crt3 l a b c => exact Laws.Fields.crt3 l a b c
  | carry l a d w => exact Laws.Fields.carry l a d w

/-- The operands read from a word of the encoding arithmetic of R83 are the ones it was given. -/
theorem operands_encodeFields {op : Nat} (hop : op < 16) (k : ModSel) (l : Log2N) (a b c : BankIx) (d : DigitCount)
    (w : Bool) :
    mselOf (encodeFields op k l a b c d w.toNat) = k ∧ log2nOf (encodeFields op k l a b c d w.toNat) = l ∧
      bankOf .ba (encodeFields op k l a b c d w.toNat) = a ∧ bankOf .bb (encodeFields op k l a b c d w.toNat) = b ∧
      bankOf .bc (encodeFields op k l a b c d w.toNat) = c ∧ digOf (encodeFields op k l a b c d w.toNat) = d ∧
      wOf (encodeFields op k l a b c d w.toNat) = w := by
  have hget (f : Field) := Laws.get_encodeFields f hop k.isLt l.isLt a.isLt b.isLt c.isLt d.isLt w.toNat_lt
  refine ⟨Fin.ext ?_, Fin.ext ?_, Fin.ext ?_, Fin.ext ?_, Fin.ext ?_, Fin.ext ?_, ?_⟩
  · rw [mselOf_val, hget]
  · rw [log2nOf_val, hget]
  · rw [bankOf_val rfl, hget]
  · rw [bankOf_val rfl, hget]
  · rw [bankOf_val rfl, hget]
  · rw [digOf_val, hget]
  · rw [wOf, hget]
    cases w <;> rfl

/-- The operands read from a command's word are the command's. -/
theorem build_encode (i : Instr) : i.opcode.build (encode i) = i := by
  cases i with
  | mulmod k =>
    obtain ⟨hk, -⟩ := operands_encodeFields (op := 0x1) (by decide) k 0 0 0 0 0 false
    exact congrArg Instr.mulmod hk
  | powmod k =>
    obtain ⟨hk, -⟩ := operands_encodeFields (op := 0x2) (by decide) k 0 0 0 0 0 false
    exact congrArg Instr.powmod hk
  | invmod k =>
    obtain ⟨hk, -⟩ := operands_encodeFields (op := 0x3) (by decide) k 0 0 0 0 0 false
    exact congrArg Instr.invmod hk
  | nttf k l a =>
    obtain ⟨hk, hl, ha, -⟩ := operands_encodeFields (op := 0x4) (by decide) k l a 0 0 0 false
    exact (Instr.nttf.injEq ..).mpr ⟨hk, hl, ha⟩
  | ntti k l a =>
    obtain ⟨hk, hl, ha, -⟩ := operands_encodeFields (op := 0x5) (by decide) k l a 0 0 0 false
    exact (Instr.ntti.injEq ..).mpr ⟨hk, hl, ha⟩
  | pmul k l a b =>
    obtain ⟨hk, hl, ha, hb, -⟩ := operands_encodeFields (op := 0x6) (by decide) k l a b 0 0 false
    exact (Instr.pmul.injEq ..).mpr ⟨hk, hl, ha, hb⟩
  | crt3 l a b c =>
    obtain ⟨-, hl, ha, hb, hc, -⟩ := operands_encodeFields (op := 0x7) (by decide) 0 l a b c 0 false
    exact (Instr.crt3.injEq ..).mpr ⟨hl, ha, hb, hc⟩
  | carry l a d w =>
    obtain ⟨-, hl, ha, -, -, hd, hw⟩ := operands_encodeFields (op := 0x8) (by decide) 0 l a 0 0 d w
    exact (Instr.carry.injEq ..).mpr ⟨hl, ha, hd, hw⟩

/-- A word of an opcode whose unused fields are 0 is the word of the command read from it: every other field is an
operand. -/
theorem encode_build {o : Opcode} {w : Word} (hop : Field.get .op w = o.code)
    (hzero : ∀ f ∈ o.mustBeZero, f.get w = 0) : encode (o.build w) = w := by
  have hrsv : Field.get .rsv w = 0 := hzero .rsv (by cases o <;> simp [Opcode.mustBeZero])
  refine Eq.trans ?_ (encodeFields_get hrsv)
  rw [hop]
  cases o <;> simp only [Opcode.mustBeZero, List.forall_mem_cons] at hzero <;>
    simp only [Opcode.build, encode, Opcode.code, mselOf_val, log2nOf_val, bankOf_val (f := .ba) rfl,
      bankOf_val (f := .bb) rfl, bankOf_val (f := .bc) rfl, digOf_val, wOf_toNat, hzero]

/-- Settles O1: the word's OP is the command's opcode, its unused fields are 0 and its operands are the command's. -/
theorem wellFormedCommandRoundTrips : Obligations.WellFormedCommandRoundTrips := by
  intro i hwf
  obtain ⟨hop, hzero⟩ := fields_encode i
  exact decode_eq_ok_iff.mpr ⟨i.opcode, hop, hzero, build_encode i, hwf⟩

/-- Settles O2, by `encode_build`. -/
theorem decodedWordIsItsEncoding : Obligations.DecodedWordIsItsEncoding := by
  intro w i h
  obtain ⟨o, hop, hzero, rfl, hwf⟩ := decode_eq_ok_iff.mp h
  exact ⟨encode_build hop hzero, hwf⟩

end Sys2Proof
end

section
/-! The rows of the opcode table (R73) and the illegal words (R79): which words match a row, which are refused, and that
the two are each other's complement. -/

namespace Sys2Proof

open Sys2Proof.Machine Sys2Proof.Spec

/-! ## The mask table and the field-use table -/

/-- A bit of the word belongs to a field (R71). -/
def Field.hasBit (f : Field) (i : Nat) : Bool := f.lo ≤ i && i < f.lo + f.width

theorem Field.testBit_get (f : Field) (w : Word) (j : Nat) :
    (f.get w).testBit j = (decide (j < f.width) && w.getLsbD (f.lo + j)) := by
  rw [Field.get, Nat.testBit_mod_two_pow, Nat.testBit_div_two_pow, Nat.add_comm]
  rfl

/-- Two words agree in a field exactly when they agree in its bits. -/
theorem Field.get_eq_get_iff (f : Field) (w x : Word) :
    f.get w = f.get x ↔ ∀ i, f.hasBit i = true → w.getLsbD i = x.getLsbD i := by
  constructor
  · intro h i hi
    simp only [Field.hasBit, Bool.and_eq_true, decide_eq_true_eq] at hi
    have hbit := congrArg (·.testBit (i - f.lo)) h
    simpa [Field.testBit_get, Nat.add_sub_cancel' hi.1, show i - f.lo < f.width by omega] using hbit
  · intro h
    apply Nat.eq_of_testBit_eq
    intro j
    rw [Field.testBit_get, Field.testBit_get]
    by_cases hj : j < f.width
    · rw [h _ (by simp [Field.hasBit, hj])]
    · simp [hj]

/-- A row's mask covers OP and the fields its opcode does not use, bit by bit (R73). -/
theorem getLsbD_mask (o : Opcode) {i : Nat} (hi : i < 32) :
    o.mask.getLsbD i = (Field.op :: o.mustBeZero).any (·.hasBit i) := by
  have hall : ∀ j : Fin 32, o.mask.getLsbD j = (Field.op :: o.mustBeZero).any (·.hasBit j) := by cases o <;> decide
  exact hall ⟨i, hi⟩

/-- A row fixes OP to the opcode and the unused fields to 0 (R73). -/
theorem get_fixedBits (o : Opcode) :
    Field.get .op o.fixedBits = o.code ∧ ∀ f ∈ o.mustBeZero, f.get o.fixedBits = 0 := by
  cases o <;> decide

/-- A word agrees with `x` under a mask that covers `x` when it has `x`'s bits where the mask is set. -/
theorem and_eq_iff_getLsbD {n : Nat} {w m x : BitVec n} (hx : x &&& m = x) :
    w &&& m = x ↔ ∀ i, i < n → m.getLsbD i = true → w.getLsbD i = x.getLsbD i := by
  rw [← hx]
  constructor
  · intro h i _ hm
    simpa [hm] using congrArg (·.getLsbD i) h
  · intro h
    apply BitVec.eq_of_getLsbD_eq
    intro i hi
    cases hm : m.getLsbD i
    · simp [hm]
    · simpa [hm] using h i hi hm

/-- The two tables of R73 say the same: a word matches a row's mask exactly when OP is the row's opcode and the fields it
does not use are 0. -/
theorem and_mask_eq_fixedBits_iff (o : Opcode) (w : Word) :
    w &&& o.mask = o.fixedBits ↔ Field.get .op w = o.code ∧ ∀ f ∈ o.mustBeZero, f.get w = 0 := by
  have hcovered : o.fixedBits &&& o.mask = o.fixedBits := by cases o <;> decide
  obtain ⟨hop, hzero⟩ := get_fixedBits o
  have hfields : w &&& o.mask = o.fixedBits ↔ ∀ f ∈ Field.op :: o.mustBeZero, f.get w = f.get o.fixedBits := by
    rw [and_eq_iff_getLsbD hcovered]
    constructor
    · intro h f hf
      rw [Field.get_eq_get_iff]
      intro i hbit
      by_cases hi : i < 32
      · exact h i hi (by rw [getLsbD_mask o hi]; exact List.any_eq_true.mpr ⟨f, hf, hbit⟩)
      · simp [BitVec.getLsbD_of_ge _ _ (Nat.le_of_not_lt hi)]
    · intro h i hi hm
      rw [getLsbD_mask o hi] at hm
      obtain ⟨f, hf, hbit⟩ := List.any_eq_true.mp hm
      exact (f.get_eq_get_iff _ _).mp (h f hf) i hbit
  rw [hfields, List.forall_mem_cons, hop]
  exact and_congr_right' (forall₂_congr fun f hf => by rw [hzero f hf])

/-! ## Words that match a row -/

/-- The conditions of R76 and R78 on the operands read from a word, as R73 states them on its bits. -/
theorem build_wf_iff (o : Opcode) (w : Word) :
    (o.build w).wf = true ↔
      (o ≠ .crt3 ∧ o ≠ .carry → bits w 27 26 ≠ 3) ∧ (o = .carry → bits w 7 7 = 1 → bits w 20 18 = 0) := by
  have hmsel : ModSel.wf (mselOf w) = true ↔ bits w 27 26 ≠ 3 := by
    rw [ModSel.wf_iff, Ne, Fin.ext_iff, mselOf_val, Field.get_eq_bits]
    rfl
  have hwide : (!wOf w || bankOf .ba w == 0) = true ↔ (bits w 7 7 = 1 → bits w 20 18 = 0) := by
    have hw : wOf w = true ↔ bits w 7 7 = 1 := by
      rw [wOf, beq_iff_eq, Field.get_eq_bits]
      rfl
    have hba : bankOf .ba w = 0 ↔ bits w 20 18 = 0 := by
      rw [Fin.ext_iff, bankOf_val rfl, Field.get_eq_bits]
      rfl
    rw [← hw, ← hba]
    cases wOf w <;> simp
  cases o
  case crt3 => simp [Opcode.build, Instr.wf]
  case carry => simpa [Opcode.build, Instr.wf] using hwide
  all_goals simpa [Opcode.build, Instr.wf] using hmsel

/-- A word decodes to a command of a row exactly when it matches the row and passes the conditions on MSEL and W (R73). -/
theorem matchesRow_iff (o : Opcode) (w : Word) : MatchesRow o w ↔ ∃ i, decode w = .ok i ∧ i.opcode = o := by
  rw [MatchesRow, and_mask_eq_fixedBits_iff, ← build_wf_iff]
  constructor
  · rintro ⟨⟨hop, hzero⟩, hwf⟩
    exact ⟨o.build w, decode_eq_ok_iff.mpr ⟨o, hop, hzero, rfl, hwf⟩, opcode_build o w⟩
  · rintro ⟨i, hd, hi⟩
    obtain ⟨o', hop, hzero, rfl, hwf⟩ := decode_eq_ok_iff.mp hd
    rw [opcode_build] at hi
    subst hi
    exact ⟨⟨hop, hzero⟩, hwf⟩

/-- Settles O3: the tables by their bits, the rows by `decode_eq_ok_iff`, and a word no row matches is refused. -/
theorem wordIsWellFormedIffItMatchesARow : Obligations.WordIsWellFormedIffItMatchesARow := by
  refine ⟨fun o w => ?_, matchesRow_iff, fun s hnone => ?_⟩
  · rw [and_mask_eq_fixedBits_iff, Field.get_eq_bits]
    rfl
  · cases hd : decode s.cmd with
    | error e => exact complete_error hd
    | ok i => exact absurd ⟨i.opcode, (matchesRow_iff _ _).mpr ⟨i, hd, rfl⟩⟩ hnone

/-! ## Illegal words -/

/-- The OP values that are assigned (R72). -/
theorem exists_code_eq_iff {n : Nat} : (∃ o : Opcode, n = o.code) ↔ 1 ≤ n ∧ n ≤ 8 := by
  constructor
  · rintro ⟨o, rfl⟩
    cases o <;> decide
  · rintro ⟨hlo, hhi⟩
    interval_cases n
    exacts [⟨.mulmod, rfl⟩, ⟨.powmod, rfl⟩, ⟨.invmod, rfl⟩, ⟨.nttf, rfl⟩, ⟨.ntti, rfl⟩, ⟨.pmul, rfl⟩, ⟨.crt3, rfl⟩,
      ⟨.carry, rfl⟩]

/-- The bit ranges of R79 by the fields they span (R71). -/
theorem bits_ranges_eq_zero_iff (w : Word) :
    (bits w 6 0 = 0 ↔ Field.get .rsv w = 0) ∧
    (bits w 11 7 = 0 ↔ Field.get .dig w = 0 ∧ Field.get .w w = 0) ∧
    (bits w 14 7 = 0 ↔ Field.get .bc w = 0 ∧ bits w 11 7 = 0) ∧
    (bits w 17 7 = 0 ↔ Field.get .bb w = 0 ∧ bits w 14 7 = 0) ∧
    (bits w 25 7 = 0 ↔ Field.get .log2n w = 0 ∧ Field.get .ba w = 0 ∧ bits w 17 7 = 0) ∧
    (bits w 17 12 = 0 ↔ Field.get .bb w = 0 ∧ Field.get .bc w = 0) ∧
    (bits w 27 26 = 0 ↔ Field.get .msel w = 0) := by
  simp only [bits_eq, Field.get, Field.lo, Field.width, true_and, and_true]
  refine ⟨?_, ?_, ?_, ?_, ?_⟩ <;> omega

/-- Of an assigned opcode, R79 lists the words with an unused field that is not 0 and those whose operands R76 and R78
refuse. -/
theorem illegalWord_iff_of_opcode {o : Opcode} {w : Word} (hop : bits w 31 28 = o.code) :
    IllegalWord w ↔ ¬((∀ f ∈ o.mustBeZero, f.get w = 0) ∧ (o.build w).wf = true) := by
  obtain ⟨hrsv, h11, h14, h17, h25, hbanks, hmsel⟩ := bits_ranges_eq_zero_iff w
  rw [build_wf_iff, IllegalWord, hop, ← not_iff_not, not_not]
  cases o <;>
    simp [Opcode.mustBeZero, Opcode.code, hrsv, h11, h14, h17, h25, hbanks, hmsel, and_assoc, and_comm, and_left_comm]

/-- The decoder refuses exactly the words that R79 lists: by the rows of an assigned opcode, and every word of another. -/
theorem decode_error_iff (w : Word) : (∃ e, decode w = .error e) ↔ IllegalWord w := by
  have herror : (∃ e, decode w = .error e) ↔ ¬∃ i, decode w = .ok i := by cases decode w <;> simp
  have hbits : Field.get .op w = bits w 31 28 := Field.get_eq_bits .op w
  rw [herror]
  by_cases hop : ∃ o : Opcode, bits w 31 28 = o.code
  · obtain ⟨o, ho⟩ := hop
    rw [illegalWord_iff_of_opcode ho, exists_decode_eq_ok_iff (hbits.trans ho)]
  · have hill : IllegalWord w := by
      have hunassigned := mt exists_code_eq_iff.mpr hop
      unfold IllegalWord
      omega
    refine iff_of_true ?_ hill
    rintro ⟨i, hd⟩
    obtain ⟨o, ho, -⟩ := decode_eq_ok_iff.mp hd
    exact hop ⟨o, hbits.symm.trans ho⟩

/-- Settles O4, by `decode_error_iff`: a refused word as the pending command only fails. -/
theorem illegalWordsAreTheListedOnes : Obligations.IllegalWordsAreTheListedOnes := by
  refine ⟨decode_error_iff, fun s hill => ?_⟩
  obtain ⟨e, he⟩ := (decode_error_iff s.cmd).mpr hill
  exact complete_error he

/-- Settles O5, by evaluation. -/
theorem workedEncodingsAgree : Obligations.WorkedEncodingsAgree := by
  unfold Obligations.WorkedEncodingsAgree
  decide

end Sys2Proof
end

section
/-! The number a CARRY prints (R140 to R143): the digits of the walk and the flush, read at the powers of 10, are the
coefficients at the powers of 10^DIG. -/

namespace Sys2Proof.Machine

open Sys2Proof.Spec

/-! ## The value of the digits -/

/-- A number by positions: its value is the sum of its digits at the powers of the base. -/
theorem ofDigits_eq_sum_range (b : Nat) (ds : List Nat) :
    Nat.ofDigits b ds = ∑ i ∈ Finset.range ds.length, ds.getD i 0 * b ^ i := by
  induction ds with
  | nil => rfl
  | cons d ds ih =>
    rw [Nat.ofDigits_cons, ih, List.length_cons, Finset.sum_range_succ', Finset.mul_sum, Nat.add_comm]
    simp [pow_succ', Nat.mul_left_comm]

/-- The digits of a chunk are those of its residue modulo the base (R142). -/
theorem ofDigits_chunkDigits (dig chunk : Nat) : Nat.ofDigits 10 (chunkDigits dig chunk) = chunk % 10 ^ dig := by
  induction dig with
  | zero => simp [chunkDigits, Nat.mod_one]
  | succ dig ih =>
    have hlast : chunkDigits (dig + 1) chunk = chunkDigits dig chunk ++ [chunk / 10 ^ dig % 10] := by
      simp [chunkDigits, List.range_succ]
    rw [hlast, Nat.ofDigits_append, ih, length_chunkDigits, Nat.ofDigits_singleton, Nat.mod_pow_succ]

/-- A chunk followed by the digits of a carry is the number whose residue is the chunk and whose quotient the carry. -/
theorem ofDigits_chunk_append {dig x : Nat} {ds : List Nat} :
    Nat.ofDigits 10 (chunkDigits dig (x % 10 ^ dig) ++ ds) = x % 10 ^ dig + 10 ^ dig * Nat.ofDigits 10 ds := by
  rw [Nat.ofDigits_append, ofDigits_chunkDigits, length_chunkDigits, Nat.mod_mod]

/-- The flush prints the carry, for at least as many turns as it has bits (R143). -/
theorem ofDigits_flushDigits {dig : Nat} (hd : 1 ≤ dig) {fuel c : Nat} (hc : c < 2 ^ fuel) :
    Nat.ofDigits 10 (flushDigits dig fuel c) = c := by
  induction fuel generalizing c with
  | zero => rw [Nat.lt_one_iff.mp hc]; rfl
  | succ fuel ih =>
    by_cases h0 : c = 0
    · rw [h0, flushDigits_zero_carry, Nat.ofDigits_nil]
    · have hrest : c / 10 ^ dig < 2 ^ fuel := by
        have h10 : 10 ≤ 10 ^ dig := Nat.le_self_pow (by omega) 10
        have hle : c / 10 ^ dig ≤ c / 10 := Nat.div_le_div_left h10 (by decide)
        rw [pow_succ] at hc
        omega
      rw [flushDigits, if_neg h0, ofDigits_chunk_append, ih hrest, Nat.mod_add_div]

/-- The walk prints the carry plus the coefficients at the powers of the base: no digit is lost (R140 to R143). -/
theorem ofDigits_carryDigits {dig : Nat} (hd : 1 ≤ dig) (src : List Nat) (c : Nat) :
    Nat.ofDigits 10 (carryDigits dig src c) = c + Nat.ofDigits (10 ^ dig) src := by
  induction src generalizing c with
  | nil => rw [carryDigits, ofDigits_flushDigits hd Nat.lt_log2_self, Nat.ofDigits_nil, Nat.add_zero]
  | cons v vs ih =>
    rw [carryDigits, ofDigits_chunk_append, ih, Nat.mul_add, ← Nat.add_assoc, Nat.mod_add_div, Nat.ofDigits_cons]
    omega

/-! ## The coefficients and the stored digits -/

theorem State.carrySource_getD (s : State) {l : Log2N} (ba : BankIx) (w : Bool) {i : Nat} (hi : i < 2 ^ l.val) :
    (s.carrySource l ba w).getD i 0 = coeff s ba w i := by
  cases w with
  | false => exact s.bankPrefix_getD ba hi
  | true => exact s.widePrefix_getD hi

/-- The coefficients CARRY walks, at the powers of the base, are the number it is to print (R72, R140, R141). -/
theorem ofDigits_carrySource (s : State) (l : Log2N) (ba : BankIx) (w : Bool) (dig : Nat) :
    Nat.ofDigits (10 ^ dig) (s.carrySource l ba w) = carryValue s ba w dig (2 ^ l.val) := by
  rw [ofDigits_eq_sum_range, State.length_carrySource, carryValue]
  refine Finset.sum_congr rfl fun i hi => ?_
  rw [s.carrySource_getD ba w (Finset.mem_range.mp hi), ← pow_mul]

/-- A good CARRY has no error condition (R146). -/
theorem firstError_of_goodCarry {s : State} {l : Log2N} {ba : BankIx} {dig : DigitCount} {w : Bool}
    (h : GoodCarry s l ba dig w) : firstError (checksOf (.carry l ba dig w) s) = none := by
  obtain ⟨hwide, -, hfits, hdig⟩ := h
  have hwf : Instr.wf (.carry l ba dig w) = true := by
    cases w
    · rfl
    · simp [Instr.wf, hwide rfl]
  simp only [firstError_eq_none, checksOf, List.forall_mem_cons, tooLarge_eq_false, badDigitCount_eq_false, hwf]
  exact ⟨rfl, hfits, hdig, by simp⟩

/-- The digit of DMEM below DCOUNT is the one the walk gave there, which fits a byte (R33, R142). -/
theorem digit_writeOf_carry {l : Log2N} {ba : BankIx} {dig : DigitCount} {w : Bool} {s : State} {k : Nat}
    (hk : k < (storedElems (.carry l ba dig w) s).length) :
    ((writeOf (.carry l ba dig w) s).digit k).toNat = (storedElems (.carry l ba dig w) s).getD k 0 ∧
      (storedElems (.carry l ba dig w) s).getD k 0 ≤ 9 := by
  have hle : (storedElems (.carry l ba dig w) s).getD k 0 ≤ 9 := by
    rw [List.getD_eq_getElem _ _ hk]
    exact carryDigits_le (List.getElem_mem hk)
  have hdigit : (writeOf (.carry l ba dig w) s).digit k = BitVec.ofNat 8 ((storedElems (.carry l ba dig w) s).getD k 0) :=
    s.digit_setDigits _ hk
  refine ⟨?_, hle⟩
  rw [hdigit, BitVec.toNat_ofNat, Nat.mod_eq_of_lt (by omega)]

/-- The stored digits are the number: the walk prints it and no digit wraps (R72, R142). -/
theorem sum_digits_writeOf_carry {l : Log2N} {ba : BankIx} {dig : DigitCount} {w : Bool} {s : State}
    (hd : 1 ≤ dig.val) :
    ∑ k ∈ Finset.range (storedElems (.carry l ba dig w) s).length,
      ((writeOf (.carry l ba dig w) s).digit k).toNat * 10 ^ k = carryValue s ba w dig.val (2 ^ l.val) := by
  calc ∑ k ∈ Finset.range (storedElems (.carry l ba dig w) s).length,
        ((writeOf (.carry l ba dig w) s).digit k).toNat * 10 ^ k
      = ∑ k ∈ Finset.range (storedElems (.carry l ba dig w) s).length,
        (storedElems (.carry l ba dig w) s).getD k 0 * 10 ^ k :=
        Finset.sum_congr rfl fun k hk => by rw [(digit_writeOf_carry (Finset.mem_range.mp hk)).1]
    _ = Nat.ofDigits 10 (carryDigits dig.val (s.carrySource l ba w) 0) := (ofDigits_eq_sum_range 10 _).symm
    _ = carryValue s ba w dig.val (2 ^ l.val) := by
        rw [ofDigits_carryDigits hd, Nat.zero_add, ofDigits_carrySource]

/-- Settles O33: DCOUNT counts the stored digits, whose value is the sum, and the destination ends there. -/
theorem carryPrintsTheExactSum : Obligations.CarryPrintsTheExactSum := by
  intro l ba dig w s h
  have hc := firstError_of_goodCarry h
  have hcount := dcount_writeOf_carry hc
  obtain ⟨hd, -⟩ := dig_bounds_of_checks hc
  refine ⟨(writeOf (.carry l ba dig w) s).succeed, exec_ok hc, rfl, fun k hk => ?_, ?_, fun a ha => ?_⟩
  · obtain ⟨hdigit, hle⟩ := digit_writeOf_carry (hcount ▸ hk)
    exact hdigit.trans_le hle
  · rw [State.succeed, hcount]
    exact sum_digits_writeOf_carry hd
  · exact readByte_writeOf_outside (storedEnd_carry hc ▸ ha)

end Sys2Proof.Machine
end

section
/-! The modular kernel (R90 to R92, R100) as products and powers of exact numbers: the loop of R91 computes the power for
every modulus, and the power P - 2 is the inverse modulo a prime. -/

namespace Sys2Proof.Machine

/-! ## What the functions compute -/

/-- Reducing the operands first does not change the residue of the product (R90). -/
theorem mulmod_eq (a b p : Nat) : mulmod a b p = a * b % p := (Nat.mul_mod a b p).symm

/-- The loop of R91 multiplies the result by the power of the running square, given a turn for each bit of the exponent. -/
theorem powLoop_eq {p fuel r b e : Nat} (he : e < 2 ^ fuel) (hr : r % p = r) :
    powLoop p fuel r b e = r * b ^ e % p := by
  induction fuel generalizing r b e with
  | zero => simp [powLoop, Nat.lt_one_iff.mp he, hr]
  | succ fuel ih =>
    by_cases h0 : e = 0
    · simp [powLoop, h0, hr]
    · have hr' : (if e % 2 = 1 then mulmod r b p else r) = r * b ^ (e % 2) % p := by
        obtain h | h := Nat.mod_two_eq_zero_or_one e <;> simp [h, hr, mulmod_eq]
      have hsplit : r * b ^ e = r * b ^ (e % 2) * (b * b) ^ (e / 2) := by
        rw [← pow_two, ← pow_mul, mul_assoc, ← pow_add, Nat.mod_add_div]
      rw [powLoop, if_neg h0, hr', mulmod_eq, ih (by omega) (Nat.mod_mod _ _), hsplit]
      exact (Nat.mod_modEq _ _).mul ((Nat.mod_modEq _ _).pow _)

/-- The power of R91, for every modulus. -/
theorem powmod_eq (a e p : Nat) : powmod a e p = a ^ e % p := by
  have hpow : 1 % p * (a % p) ^ e ≡ 1 * a ^ e [MOD p] := (Nat.mod_modEq 1 p).mul ((Nat.mod_modEq a p).pow e)
  rw [powmod, powLoop_eq Nat.lt_log2_self (Nat.mod_mod _ _), hpow, Nat.one_mul]

/-- The power of R92, for every modulus. -/
theorem invmod_eq (a p : Nat) : invmod a p = a ^ (p - 2) % p := powmod_eq a (p - 2) p

/-! ## Prime moduli -/

/-- Fermat's little theorem for residues. -/
theorem pow_pred_mod_prime {a p : Nat} (hp : p.Prime) (ha : a % p ≠ 0) : a ^ (p - 1) % p = 1 := by
  have hdvd : ¬p ∣ a := fun h => ha (Nat.mod_eq_zero_of_dvd h)
  have hfermat : a ^ p.totient ≡ 1 [MOD p] := Nat.ModEq.pow_totient ((hp.coprime_iff_not_dvd.mpr hdvd).symm)
  rw [Nat.totient_prime hp] at hfermat
  exact Eq.trans hfermat (Nat.mod_eq_of_lt hp.one_lt)

/-- Modulo a prime the power of R92 is an inverse (R92, R100). -/
theorem mul_invmod_mod_prime {a p : Nat} (hp : p.Prime) (ha : a % p ≠ 0) : a * invmod a p % p = 1 := by
  have h2 := hp.two_le
  rw [invmod_eq, Nat.mul_mod_mod, ← pow_succ', show p - 2 + 1 = p - 1 by omega, pow_pred_mod_prime hp ha]

/-! ## The statements about the kernel -/

/-- Settles O15, by `mulmod_eq`; the product of two residues of a 32-bit modulus is below the square of 2^32. -/
theorem mulmodIsTheResidueOfTheProduct : Obligations.MulmodIsTheResidueOfTheProduct := by
  intro a b p hp
  refine ⟨rfl, mulmod_eq a b p, mulmod_lt a b (by omega), fun hp32 => ?_⟩
  have hlt : ∀ x, x % p < 2 ^ 32 := fun x => (Nat.mod_lt x (by omega)).trans hp32
  exact (Nat.mul_lt_mul'' (hlt a) (hlt b)).trans_eq (by norm_num)

/-- Settles O16, by `powmod_eq`. -/
theorem powmodIsTheResidueOfThePower : Obligations.PowmodIsTheResidueOfThePower := by
  intro a e p hp
  exact ⟨powmod_eq a e p, powmod_lt a e (by omega), (powmod_eq a 0 p).trans (Nat.mod_eq_of_lt hp)⟩

/-- Settles O17, by `invmod_eq` and Fermat's little theorem. -/
theorem invmodIsAnInverseForPrimes : Obligations.InvmodIsAnInverseForPrimes := by
  intro a p hp ha
  refine ⟨invmod_eq a p, ?_, fun hprime => mul_invmod_mod_prime hprime ha⟩
  rintro rfl
  exact invmod_eq a 2

/-- Settles O18: with both functions as products and powers, the laws are those of exact numbers. -/
theorem kernelLaws : Obligations.KernelLaws := by
  intro p hp
  simp only [mulmod_eq, powmod_eq]
  refine ⟨fun a b => by rw [Nat.mul_comm], fun a => by rw [Nat.mul_one], fun a => rfl, fun a e1 e2 => ?_,
    fun a => by rw [pow_one], fun hprime a ha => ⟨pow_pred_mod_prime hprime ha, mul_invmod_mod_prime hprime ha⟩⟩
  rw [pow_add, Nat.mul_mod]

end Sys2Proof.Machine
end

section
/-! MULMOD, POWMOD, INVMOD and PMUL from the check phase to the result (R94 to R97, R99). -/

namespace Sys2Proof.Machine

open Sys2Proof.Spec

/-! ## Results that fit their place -/

/-- A modulus is a 32-bit number (R27). -/
theorem State.prime_lt (s : State) (k : ModSel) : s.prime k < 2 ^ 32 := by
  match k with
  | 0 => exact s.modP0.isLt
  | 1 => exact s.modP1.isLt
  | 2 => exact s.modP2.isLt
  | 3 => exact Nat.two_pow_pos 32

/-- SR holds a residue of a modulus as it is (R26). -/
theorem State.toNat_sr_setSr {s : State} {k : ModSel} {v : Nat} (h : v < s.prime k) : (s.setSr v).sr.toNat = v :=
  Nat.mod_eq_of_lt (h.trans (s.prime_lt k))

/-- A bank holds a number of 32 bits as it is (R30). -/
theorem State.toNat_bank_setBank (s : State) (b : BankIx) {vs : List Nat} {i : Nat} (hi : i < vs.length)
    (h : vs.getD i 0 < 2 ^ 32) : ((s.setBank b vs).bank b i).toNat = vs.getD i 0 := by
  rw [State.bank_setBank s b vs hi, BitVec.toNat_ofNat, Nat.mod_eq_of_lt h]

theorem pointwise_getD {p i : Nat} {a b : List Nat} (ha : i < a.length) (hb : i < b.length) :
    (pointwise p a b).getD i 0 = mulmod (a.getD i 0) (b.getD i 0) p := by
  simp [pointwise, List.getD, ha, hb]

theorem storedElems_pmul_getD (k : ModSel) {l : Log2N} (ba bb : BankIx) (s : State) {i : Nat} (hi : i < arrayLen l) :
    (storedElems (.pmul k l ba bb) s).getD i 0 = (s.bank ba i).toNat * (s.bank bb i).toNat % s.prime k := by
  have hlen : ∀ b, i < (s.bankPrefix b (arrayLen l)).length := fun b => (s.length_bankPrefix b _).symm ▸ hi
  rw [storedElems, pointwise_getD (hlen ba) (hlen bb), s.bankPrefix_getD ba hi, s.bankPrefix_getD bb hi, mulmod_eq]

/-! ## The check phases -/

theorem firstError_mulmod {k : ModSel} {s : State} (hk : k ≠ 3) (hp : 2 ≤ s.prime k) :
    firstError (checksOf (.mulmod k) s) = none := by
  simp [firstError_eq_none, checksOf, Instr.wf, hk, hp]

theorem firstError_powmod {k : ModSel} {s : State} (hk : k ≠ 3) (hp : 2 ≤ s.prime k) :
    firstError (checksOf (.powmod k) s) = none := firstError_mulmod hk hp

theorem firstError_invmod {k : ModSel} {s : State} (hk : k ≠ 3) (hp : 2 ≤ s.prime k)
    (ha : s.sa.toNat % s.prime k ≠ 0) : firstError (checksOf (.invmod k) s) = none := by
  simp [firstError_eq_none, checksOf, Instr.wf, hk, hp, ha]

theorem firstError_pmul {k : ModSel} {l : Log2N} {s : State} (ba bb : BankIx) (hk : k ≠ 3) (hp : 2 ≤ s.prime k)
    (hl : FitsBank s l) : firstError (checksOf (.pmul k l ba bb) s) = none := by
  have hl' : l.val ≤ s.params.log2Nmax.val := hl
  simp [firstError_eq_none, checksOf, Instr.wf, hk, hp, hl']

/-! ## The statements about the commands -/

/-- Settles O19: the write phase puts the product's residue in SR. -/
theorem mulmodCompletes : Obligations.MulmodCompletes := by
  intro k s hk hp
  refine ⟨_, exec_ok (firstError_mulmod hk hp), rfl, ?_⟩
  exact (State.toNat_sr_setSr (mulmod_lt _ _ (by omega))).trans (mulmod_eq _ _ _)

/-- Settles O20: the write phase puts the power's residue in SR. -/
theorem powmodCompletes : Obligations.PowmodCompletes := by
  intro k s hk hp
  refine ⟨_, exec_ok (firstError_powmod hk hp), rfl, ?_⟩
  exact (State.toNat_sr_setSr (powmod_lt _ _ (by omega))).trans (powmod_eq _ _ _)

/-- Settles O21: the write phase puts the power P - 2 in SR, from SA and the modulus alone. -/
theorem invmodCompletes : Obligations.InvmodCompletes := by
  intro k s hk hp ha
  have hsr : (writeOf (.invmod k) s).succeed.sr.toNat = invmod s.sa.toNat (s.prime k) :=
    State.toNat_sr_setSr (powmod_lt _ _ (by omega))
  refine ⟨_, exec_ok (firstError_invmod hk hp ha), rfl, hsr.trans (invmod_eq _ _), fun hprime => ?_, fun v => ?_⟩
  · rw [hsr]
    exact mul_invmod_mod_prime hprime ha
  · exact ⟨_, exec_ok (firstError_invmod (s := { s with sb := v }) hk hp ha), rfl⟩

/-- Settles O22: both banks are read before the products are stored, so that BA = BB is no case of its own. -/
theorem pmulCompletes : Obligations.PmulCompletes := by
  intro k l ba bb s hk hp hl _ _
  have hp0 : 0 < s.prime k := by omega
  refine ⟨_, exec_ok (firstError_pmul ba bb hk hp hl), rfl, fun i hi => ?_, fun a ha => ?_⟩
  · have hproduct := storedElems_pmul_getD k ba bb s hi
    rw [← hproduct]
    refine s.toNat_bank_setBank ba ?_ (hproduct ▸ (Nat.mod_lt _ hp0).trans (s.prime_lt k))
    rwa [length_pointwise, s.length_bankPrefix, s.length_bankPrefix, min_self]
  · exact readByte_writeOf_outside (storedEnd_pmul k l ba bb s ▸ ha)

end Sys2Proof.Machine
end

section
/-! The bit-reversal permutation (R110, R111): reversing twice gives the index back, and the swaps of the loop leave the
reversed array. -/

namespace Sys2Proof.Machine

/-! ## Reversing the bits of an index -/

theorem bitrev_lt (i k : Nat) : bitrev i k < 2 ^ k := by
  induction k generalizing i with
  | zero => exact Nat.zero_lt_one
  | succ k ih =>
    have hlow : i % 2 * 2 ^ k ≤ 1 * 2 ^ k := Nat.mul_le_mul_right _ (by omega)
    have := ih (i / 2)
    rw [bitrev, pow_succ]
    omega

@[simp] theorem bitrev_zero_index (k : Nat) : bitrev 0 k = 0 := by
  induction k with
  | zero => rfl
  | succ k ih => simp [bitrev, ih]

/-- The lowest bit of an even index is 0, which becomes the highest. -/
theorem bitrev_double (i k : Nat) : bitrev (2 * i) (k + 1) = bitrev i k := by
  simp [bitrev]

/-- The lowest bit of an odd index is 1, which becomes the highest. -/
theorem bitrev_double_add_one (i k : Nat) : bitrev (2 * i + 1) (k + 1) = 2 ^ k + bitrev i k := by
  rw [bitrev, show (2 * i + 1) % 2 = 1 by omega, show (2 * i + 1) / 2 = i by omega, Nat.one_mul]

/-- The highest bit of an index becomes the lowest. -/
theorem bitrev_high_bit {b i k : Nat} (hb : b < 2) (hi : i < 2 ^ k) :
    bitrev (b * 2 ^ k + i) (k + 1) = 2 * bitrev i k + b := by
  induction k generalizing i with
  | zero =>
    obtain rfl : i = 0 := Nat.lt_one_iff.mp hi
    simp [bitrev, Nat.mod_eq_of_lt hb]
  | succ k ih =>
    have hpow : b * 2 ^ (k + 1) = 2 * (b * 2 ^ k) := by ring
    have hrest : (b * 2 ^ (k + 1) + i) / 2 = b * 2 ^ k + i / 2 := by omega
    have hlow : (b * 2 ^ (k + 1) + i) % 2 = i % 2 := by omega
    rw [bitrev, hlow, hrest, ih (by omega), bitrev, pow_succ]
    ring

/-- Reversing the bits twice gives the index back. -/
theorem bitrev_bitrev {i k : Nat} (hi : i < 2 ^ k) : bitrev (bitrev i k) k = i := by
  induction k generalizing i with
  | zero => exact (Nat.lt_one_iff.mp hi).symm
  | succ k ih =>
    rw [bitrev.eq_2 i k, bitrev_high_bit (by omega) (bitrev_lt _ _), ih (by omega)]
    omega

/-! ## The swaps -/

/-- A swap of two elements is the swap of their indices. -/
theorem elem_swapElems {a : List Nat} {i j : Nat} (hi : i < a.length) (hj : j < a.length) (m : Nat) :
    elem (swapElems a i j) m = elem a (Equiv.swap i j m) := by
  simp only [swapElems, elem, Equiv.swap_apply_def, List.getD_eq_getElem?_getD, List.getElem?_set, List.length_set]
  grind

/-- After the swaps for the indices from i on, a pair of an index and its reversal has been exchanged when neither is
below i. -/
theorem elem_bitrevSwaps {l k i m : Nat} {a : List Nat} (ha : a.length = 2 ^ l) (hik : i + k = 2 ^ l) (hm : m < 2 ^ l) :
    elem (bitrevSwaps l k i a) m = elem a (if i ≤ m ∧ i ≤ bitrev m l then bitrev m l else m) := by
  induction k generalizing i a with
  | zero => rw [bitrevSwaps, if_neg (by omega)]
  | succ k ih =>
    have hmm := bitrev_bitrev hm
    have hi : i < 2 ^ l := by omega
    have hii := bitrev_bitrev hi
    have hr := bitrev_lt i l
    rw [bitrevSwaps, ih (by split <;> simp [ha]) (by omega)]
    split
    · rw [elem_swapElems (by omega) (by omega), Equiv.swap_apply_def]
      grind
    · grind

/-- The swaps of R111 leave the element of the reversed index at every index. -/
theorem elem_bitrevPermute {l m : Nat} {a : List Nat} (ha : a.length = 2 ^ l) (hm : m < 2 ^ l) :
    elem (bitrevPermute l a) m = elem a (bitrev m l) := by
  rw [bitrevPermute, elem_bitrevSwaps ha (by omega) hm]
  split
  case isTrue => rfl
  case isFalse h =>
    have hfixed : m = 0 ∨ bitrev m l = 0 := by omega
    obtain rfl | h0 := hfixed
    · rw [bitrev_zero_index]
    · rw [← bitrev_bitrev hm, h0, bitrev_zero_index, bitrev_zero_index]

end Sys2Proof.Machine
end

section
/-! The loops of R113 as the network of stages that the statements are written in, for every modulus and every root. -/

namespace Sys2Proof.Machine

open Sys2Proof.Spec

/-! ## One butterfly and one block -/

theorem elem_butterfly {x y : Nat} {a : List Nat} (hx : x < a.length) (hy : y < a.length) (p w m : Nat) :
    elem (butterfly p w x y a) m =
      if m = y then (elem a x + p - elem a y * w % p) % p
      else if m = x then (elem a x + elem a y * w % p) % p
      else elem a m := by
  simp only [butterfly, mulmod_eq, elem, List.getD_eq_getElem?_getD, List.getElem?_set, List.length_set]
  grind

/-- What the inner loop leaves in the block at i: the butterflies from index j on with the powers of the stage root, and
every other element as it was. -/
theorem elem_blockLoop {p half r i k j w : Nat} {a : List Nat} (hjk : j + k ≤ half) (hlen : i + 2 * half ≤ a.length)
    (hw : w ≡ r ^ j [MOD p]) (m : Nat) :
    elem (blockLoop p half r i k j w a) m =
      if i + j ≤ m ∧ m < i + j + k then (elem a m + elem a (m + half) * r ^ (m - i) % p) % p
      else if i + j + half ≤ m ∧ m < i + j + half + k then
        (elem a (m - half) + p - elem a m * r ^ (m - half - i) % p) % p
      else elem a m := by
  induction k generalizing j w a with
  | zero => rw [blockLoop, if_neg (by omega), if_neg (by omega)]
  | succ k ih =>
    have hw' : mulmod w r p ≡ r ^ (j + 1) [MOD p] := by
      rw [mulmod_eq, pow_succ]
      exact (Nat.mod_modEq _ _).trans (hw.mul_right r)
    have ht : elem a (i + j + half) * w % p = elem a (i + j + half) * r ^ j % p := hw.mul_left _
    rw [blockLoop, ih (by omega) (by simpa using hlen) hw']
    simp only [elem_butterfly (show i + j < a.length by omega) (show i + j + half < a.length by omega), ht]
    obtain hx | hy | ⟨hx, hy⟩ : m = i + j ∨ m = i + j + half ∨ (m ≠ i + j ∧ m ≠ i + j + half) := by omega
    · have hexp : m - i = j := by omega
      grind
    · have hexp : m - half - i = j := by omega
      grind
    · grind

/-! ## One stage -/

/-- The indices of block b. -/
theorem div_eq_iff_in_block {size b m : Nat} (hsize : 0 < size) : m / size = b ↔ size * b ≤ m ∧ m < size * b + size := by
  rw [Nat.div_eq_iff hsize, Nat.mul_comm]
  omega

/-- A stage leaves in a block what the elements of that block alone determine. -/
theorem stage_congr {p half r m : Nat} {x y : Nat → Nat} (hhalf : 0 < half)
    (h : ∀ m', m' / (2 * half) = m / (2 * half) → x m' = y m') : stage p half r x m = stage p half r y m := by
  have hsize : 0 < 2 * half := by omega
  have hm := Nat.div_add_mod m (2 * half)
  have hlt := Nat.mod_lt m hsize
  unfold stage
  split
  case isTrue hlow =>
    rw [h m rfl, h (m + half) ((div_eq_iff_in_block hsize).mpr (by omega))]
  case isFalse hhigh =>
    rw [h m rfl, h (m - half) ((div_eq_iff_in_block hsize).mpr (by omega))]

/-- The inner loop is the stage on its own 2·half elements, and every other element stays as it was. -/
theorem elem_block {p half b : Nat} {a : List Nat} (hhalf : 0 < half) (hlen : 2 * half * (b + 1) ≤ a.length) (r m : Nat) :
    elem (blockLoop p half r (2 * half * b) half 0 1 a) m =
      if m / (2 * half) = b then stage p half r (elem a) m else elem a m := by
  have hsize : 0 < 2 * half := by omega
  have hlen' : 2 * half * b + 2 * half ≤ a.length := by rwa [Nat.mul_succ] at hlen
  rw [elem_blockLoop (Nat.zero_add half).le hlen' (by rw [pow_zero])]
  by_cases hin : m / (2 * half) = b
  · have hplace : m % (2 * half) = m - 2 * half * b := by rw [← hin, Nat.mod_eq_sub_mul_div]
    have hhalfplace : m % half = (m - 2 * half * b) % half := by
      rw [← hplace, Nat.mod_mod_of_dvd m (Nat.dvd_mul_left half 2)]
    rw [if_pos hin, stage, hplace, hhalfplace]
    rw [div_eq_iff_in_block hsize] at hin
    by_cases hlow : m - 2 * half * b < half
    · rw [if_pos (by omega), if_pos hlow, Nat.mod_eq_of_lt hlow]
    · have hexp : (m - 2 * half * b) % half = m - half - 2 * half * b := by
        rw [Nat.mod_eq_sub_mod (by omega), Nat.mod_eq_of_lt (by omega), Nat.sub_right_comm]
      rw [if_neg (by omega), if_pos (by omega), if_neg hlow, hexp]
  · rw [if_neg hin]
    rw [div_eq_iff_in_block hsize] at hin
    rw [if_neg (by omega), if_neg (by omega)]

/-- The middle loop is the stage on its k blocks from block b on, and every other element stays as it was. -/
theorem elem_stageLoop {p half k b : Nat} {a : List Nat} (hhalf : 0 < half) (hlen : 2 * half * (b + k) ≤ a.length)
    (r m : Nat) :
    elem (stageLoop p half r k (2 * half * b) a) m =
      if b ≤ m / (2 * half) ∧ m / (2 * half) < b + k then stage p half r (elem a) m else elem a m := by
  induction k generalizing b a with
  | zero => rw [stageLoop, if_neg (by omega)]
  | succ k ih =>
    have hfirst : 2 * half * (b + 1) ≤ a.length := (Nat.mul_le_mul_left _ (by omega)).trans hlen
    have hrest : 2 * half * (b + 1 + k) ≤ a.length := by rwa [Nat.add_right_comm]
    rw [stageLoop, ← Nat.mul_succ, ih (by simpa using hrest)]
    split
    case isTrue hin =>
      rw [if_pos (by omega)]
      refine stage_congr hhalf fun m' hm' => ?_
      rw [elem_block hhalf hfirst, if_neg (by omega)]
    case isFalse hout =>
      rw [elem_block hhalf hfirst]
      by_cases hb : m / (2 * half) = b
      · rw [if_pos hb, if_pos (by omega)]
      · rw [if_neg hb, if_neg (by omega)]

/-! ## All stages -/

/-- One pass of the middle loop over a whole array that holds the network after s stages leaves the network after the
next. -/
theorem elem_stageLoop_network {p s l : Nat} {r x : Nat → Nat} {a : List Nat} (ha : a.length = 2 ^ l) (hs : s < l)
    (hx : ∀ m, m < 2 ^ l → elem a m = network p r x s m) {m : Nat} (hm : m < 2 ^ l) :
    elem (stageLoop p (2 ^ s) (r (s + 1)) (2 ^ l / 2 ^ (s + 1)) 0 a) m = network p r x (s + 1) m := by
  have hhalf : 0 < 2 ^ s := Nat.two_pow_pos s
  have hsize : 2 ^ (s + 1) = 2 * 2 ^ s := pow_succ' 2 s
  obtain ⟨k, hk⟩ : 2 * 2 ^ s ∣ 2 ^ l := hsize ▸ Nat.pow_dvd_pow 2 hs
  have hblocks : 2 ^ l / 2 ^ (s + 1) = k := by rw [hk, hsize, Nat.mul_div_cancel_left k (by omega)]
  have hinside : ∀ m', m' < 2 ^ l ↔ m' / (2 * 2 ^ s) < k := fun m' => by
    rw [hk, Nat.div_lt_iff_lt_mul (by omega), Nat.mul_comm]
  have hloop := elem_stageLoop (p := p) (b := 0) hhalf (by rw [ha, hk, Nat.zero_add]) (r (s + 1)) m
  rw [Nat.mul_zero, Nat.zero_add, if_pos ⟨Nat.zero_le _, (hinside m).mp hm⟩] at hloop
  rw [hblocks, hloop, network]
  exact stage_congr hhalf fun m' hm' => hx m' ((hinside m').mpr (hm' ▸ (hinside m).mp hm))

/-- The stages from one of half-length 2^s on take the network after s stages to the network after s + k. -/
theorem elem_stages {p s k l : Nat} {r x : Nat → Nat} {a : List Nat} (ha : a.length = 2 ^ l) (hk : s + k ≤ l)
    (hx : ∀ m, m < 2 ^ l → elem a m = network p r x s m) {m : Nat} (hm : m < 2 ^ l) :
    elem (stages p (2 ^ l) (2 ^ s) ((List.range' (s + 1) k).map r) a) m = network p r x (s + k) m := by
  induction k generalizing s a with
  | zero => exact hx m hm
  | succ k ih =>
    rw [List.range'_succ, List.map_cons, stages, ← pow_succ', ih (by simpa using ha) (by omega), Nat.succ_add_eq_add_succ]
    exact fun m hm => elem_stageLoop_network ha (by omega) hx hm

/-- The transform with the stage roots r 1, …, r l is the network on the bit-reversed array (R111, R113). -/
theorem elem_transform {p l m : Nat} (r : Nat → Nat) {a : List Nat} (ha : a.length = 2 ^ l) (hm : m < 2 ^ l) :
    elem (transform p l ((List.range' 1 l).map r) a) m = network p r (fun i => elem a (bitrev i l)) l m := by
  have h := elem_stages (p := p) (s := 0) (k := l) (r := r) (x := fun i => elem a (bitrev i l)) (by simpa using ha)
    (by omega) (fun m hm => elem_bitrevPermute ha hm) hm
  simpa [transform] using h

end Sys2Proof.Machine
end

section
/-! The network of stages as a discrete Fourier transform modulo P (R115, R116): where the root's power n/2 is -1, each
block of 2^s elements after s stages is the transform of 2^s elements. -/

namespace Sys2Proof.Machine

open Sys2Proof.Spec

/-! ## Transforms over a ring -/

/-- The discrete Fourier transform of n elements with root ρ. -/
def dft {R : Type} [CommRing R] (n : Nat) (ρ : R) (y : Nat → R) (c : Nat) : R :=
  ∑ j ∈ Finset.range n, y j * ρ ^ (j * c)

theorem sum_range_double {M : Type} [AddCommMonoid M] (n : Nat) (f : Nat → M) :
    ∑ j ∈ Finset.range (2 * n), f j = ∑ j ∈ Finset.range n, f (2 * j) + ∑ j ∈ Finset.range n, f (2 * j + 1) := by
  induction n with
  | zero => simp
  | succ n ih =>
    rw [Nat.mul_succ, Finset.sum_range_succ, Finset.sum_range_succ, ih, Finset.sum_range_succ, Finset.sum_range_succ]
    abel

/-- The transform of 2n elements is two of n elements, of those at even and of those at odd indices. -/
theorem dft_double {R : Type} [CommRing R] (n : Nat) (ρ : R) (y : Nat → R) (c : Nat) :
    dft (2 * n) ρ y c = dft n (ρ ^ 2) (fun j => y (2 * j)) c + dft n (ρ ^ 2) (fun j => y (2 * j + 1)) c * ρ ^ c := by
  rw [dft, sum_range_double, dft, dft, Finset.sum_mul]
  congr 1
  · exact Finset.sum_congr rfl fun j _ => by ring
  · exact Finset.sum_congr rfl fun j _ => by ring

/-- The transform repeats after n elements for a root of order n. -/
theorem dft_add_length {R : Type} [CommRing R] {n : Nat} {ρ : R} (hρ : ρ ^ n = 1) (y : Nat → R) (c : Nat) :
    dft n ρ y (n + c) = dft n ρ y c := by
  refine Finset.sum_congr rfl fun j _ => ?_
  rw [Nat.mul_add, pow_add, Nat.mul_comm j n, pow_mul, hρ, one_pow, one_mul]

/-! ## The stages modulo P -/

theorem natCast_add_sub_mod {p : Nat} (hp : 0 < p) (u t : Nat) :
    (((u + p - t % p) % p : Nat) : ZMod p) = u - t := by
  have hle : t % p ≤ u + p := (Nat.mod_lt t hp).le.trans (Nat.le_add_left p u)
  rw [ZMod.natCast_mod, Nat.cast_sub hle, Nat.cast_add, ZMod.natCast_self, ZMod.natCast_mod, add_zero]

/-- The first half of a block of a stage. -/
theorem natCast_stage_low {p half c : Nat} (hc : c < half) (r : Nat) (x : Nat → Nat) (b : Nat) :
    (stage p half r x (2 * half * b + c) : ZMod p) =
      x (half * (2 * b) + c) + x (half * (2 * b + 1) + c) * (r : ZMod p) ^ c := by
  have hfirst : 2 * half * b + c = half * (2 * b) + c := by ring
  have hsecond : 2 * half * b + c + half = half * (2 * b + 1) + c := by ring
  have hplace : (2 * half * b + c) % (2 * half) = c := by rw [Nat.mul_add_mod, Nat.mod_eq_of_lt (by omega)]
  have hpower : (2 * half * b + c) % half = c := by rw [hfirst, Nat.mul_add_mod, Nat.mod_eq_of_lt hc]
  rw [stage, hplace, if_pos hc, hpower, hsecond, hfirst]
  push_cast [ZMod.natCast_mod]
  rfl

/-- The second half of a block of a stage. -/
theorem natCast_stage_high {p half c : Nat} (hp : 0 < p) (hc : c < half) (r : Nat) (x : Nat → Nat) (b : Nat) :
    (stage p half r x (2 * half * b + (half + c)) : ZMod p) =
      x (half * (2 * b) + c) - x (half * (2 * b + 1) + c) * (r : ZMod p) ^ c := by
  have hsecond : 2 * half * b + (half + c) = half * (2 * b + 1) + c := by ring
  have hfirst : half * (2 * b + 1) + c - half = half * (2 * b) + c := by rw [Nat.mul_succ]; omega
  have hplace : (2 * half * b + (half + c)) % (2 * half) = half + c := by
    rw [Nat.mul_add_mod, Nat.mod_eq_of_lt (by omega)]
  have hpower : (2 * half * b + (half + c)) % half = c := by rw [hsecond, Nat.mul_add_mod, Nat.mod_eq_of_lt hc]
  rw [stage, hplace, if_neg (by omega), hpower, hsecond, hfirst, natCast_add_sub_mod hp, Nat.cast_mul, Nat.cast_pow]

/-- After s stages each block of 2^s elements is the transform of the block's elements in bit-reversed order, with the
root whose power 2^(s-1) is -1. -/
theorem natCast_network {p l : Nat} {r : Nat → Nat} {ω : ZMod p} (hp : 0 < p)
    (hr : ∀ j, 1 ≤ j → j ≤ l → (r j : ZMod p) = ω ^ 2 ^ (l - j)) (hω : ω ^ 2 ^ (l - 1) = -1) (x : Nat → Nat)
    {s : Nat} (hs : s ≤ l) (b : Nat) {c : Nat} (hc : c < 2 ^ s) :
    (network p r x s (2 ^ s * b + c) : ZMod p) =
      dft (2 ^ s) (ω ^ 2 ^ (l - s)) (fun j => (x (2 ^ s * b + bitrev j s) : ZMod p)) c := by
  induction s generalizing b c with
  | zero =>
    obtain rfl : c = 0 := Nat.lt_one_iff.mp hc
    simp [network, dft, bitrev]
  | succ s ih =>
    have hsquare : ω ^ 2 ^ (l - s) = (ω ^ 2 ^ (l - (s + 1))) ^ 2 := by
      rw [← pow_mul, ← pow_succ, show l - (s + 1) + 1 = l - s by omega]
    have hhalf : (ω ^ 2 ^ (l - (s + 1))) ^ 2 ^ s = -1 := by
      rw [← pow_mul, ← pow_add, show l - (s + 1) + s = l - 1 by omega, hω]
    have hroot : (r (s + 1) : ZMod p) = ω ^ 2 ^ (l - (s + 1)) := hr (s + 1) (by omega) hs
    generalize ω ^ 2 ^ (l - (s + 1)) = ρ at hsquare hhalf hroot
    have heven : ∀ {c'}, c' < 2 ^ s → (network p r x s (2 ^ s * (2 * b) + c') : ZMod p) =
        dft (2 ^ s) (ρ ^ 2) (fun j => (x (2 * 2 ^ s * b + bitrev (2 * j) (s + 1)) : ZMod p)) c' := fun hc' => by
      rw [ih (by omega) _ hc', hsquare]
      simp only [bitrev_double, Nat.mul_assoc, Nat.mul_left_comm]
    have hodd : ∀ {c'}, c' < 2 ^ s → (network p r x s (2 ^ s * (2 * b + 1) + c') : ZMod p) =
        dft (2 ^ s) (ρ ^ 2) (fun j => (x (2 * 2 ^ s * b + bitrev (2 * j + 1) (s + 1)) : ZMod p)) c' := fun hc' => by
      rw [ih (by omega) _ hc', hsquare]
      simp only [bitrev_double_add_one, Nat.mul_succ, Nat.mul_assoc, Nat.mul_left_comm, Nat.add_assoc]
    rw [network, pow_succ' 2 s, dft_double]
    obtain hlow | ⟨c', rfl⟩ := (Nat.lt_or_ge c (2 ^ s)).imp_right Nat.exists_eq_add_of_le
    · rw [natCast_stage_low hlow, hroot, heven hlow, hodd hlow]
    · have hc' : c' < 2 ^ s := by rw [pow_succ] at hc; omega
      have hperiod : (ρ ^ 2) ^ 2 ^ s = 1 := by rw [pow_right_comm, hhalf, neg_one_sq]
      rw [natCast_stage_high hp hc', hroot, dft_add_length hperiod, dft_add_length hperiod, pow_add, hhalf, heven hc',
        hodd hc']
      ring

/-- The transform of the loops is the Fourier transform with root ω, for stage roots that are the powers 2^(l-j) of ω
and a root whose power n/2 is -1. -/
theorem natCast_transform {p l : Nat} {r : Nat → Nat} {ω : ZMod p} (hp : 0 < p)
    (hr : ∀ j, 1 ≤ j → j ≤ l → (r j : ZMod p) = ω ^ 2 ^ (l - j)) (hω : ω ^ 2 ^ (l - 1) = -1) {a : List Nat}
    (ha : a.length = 2 ^ l) {c : Nat} (hc : c < 2 ^ l) :
    (elem (transform p l ((List.range' 1 l).map r) a) c : ZMod p) = dft (2 ^ l) ω (fun j => (elem a j : ZMod p)) c := by
  have h := natCast_network hp hr hω (fun i => elem a (bitrev i l)) le_rfl 0 hc
  rw [Nat.mul_zero, Nat.zero_add, Nat.sub_self, pow_zero, pow_one, ← elem_transform r ha hc] at h
  refine h.trans (Finset.sum_congr rfl fun j hj => ?_)
  simp only [Nat.zero_add, bitrev_bitrev (Finset.mem_range.mp hj)]

/-! ## The stage roots -/

theorem stageRoots_eq (p g l : Nat) : stageRoots p g l = (List.range' 1 l).map (forwardRoot p g) := by
  simp [stageRoots, List.range'_eq_map_range, forwardRoot, powmod_eq, Nat.add_comm]

theorem inverseRoots_eq (p g l : Nat) : inverseRoots p g l = (List.range' 1 l).map (inverseRoot p g) := by
  simp [inverseRoots, stageRoots_eq, inverseRoot, invmod_eq]

/-- Every forward stage root is a power of the last one. -/
theorem natCast_forwardRoot {p l j : Nat} (g : Nat) (hdvd : 2 ^ l ∣ p - 1) (hj : j ≤ l) :
    (forwardRoot p g j : ZMod p) = ((g : ZMod p) ^ ((p - 1) / 2 ^ l)) ^ 2 ^ (l - j) := by
  obtain ⟨q, hq⟩ := hdvd
  have hsplit : p - 1 = 2 ^ j * (q * 2 ^ (l - j)) := by
    rw [hq, Nat.mul_left_comm, ← pow_add, Nat.add_sub_cancel' hj, Nat.mul_comm]
  rw [forwardRoot, ZMod.natCast_mod, Nat.cast_pow, ← pow_mul]
  congr 1
  rw [show (p - 1) / 2 ^ l = q by rw [hq, Nat.mul_div_cancel_left q (Nat.two_pow_pos l)],
    show (p - 1) / 2 ^ j = q * 2 ^ (l - j) by rw [hsplit, Nat.mul_div_cancel_left _ (Nat.two_pow_pos j)]]

/-- Every inverse stage root is the same power of the last one (R92, R112). -/
theorem natCast_inverseRoot {p l j : Nat} (g : Nat) (hdvd : 2 ^ l ∣ p - 1) (hj : j ≤ l) :
    (inverseRoot p g j : ZMod p) = (((g : ZMod p) ^ ((p - 1) / 2 ^ l)) ^ (p - 2)) ^ 2 ^ (l - j) := by
  rw [inverseRoot, ZMod.natCast_mod, Nat.cast_pow, natCast_forwardRoot g hdvd hj, pow_right_comm]

/-- The premise of the closed forms (log 15): the first forward stage root is -1. -/
theorem natCast_forwardRoot_one {p g : Nat} (hp : 2 ≤ p) (hg : g ^ ((p - 1) / 2) % p = p - 1) :
    (forwardRoot p g 1 : ZMod p) = -1 := by
  rw [forwardRoot, pow_one, hg, Nat.cast_pred (by omega), ZMod.natCast_self, zero_sub]

/-- The power n/2 of the last forward stage root is -1. -/
theorem forward_half_power {p g l : Nat} (hp : 2 ≤ p) (hl : 1 ≤ l) (hdvd : 2 ^ l ∣ p - 1)
    (hg : g ^ ((p - 1) / 2) % p = p - 1) : ((g : ZMod p) ^ ((p - 1) / 2 ^ l)) ^ 2 ^ (l - 1) = -1 := by
  rw [← natCast_forwardRoot g hdvd hl, natCast_forwardRoot_one hp hg]

/-- The power n/2 of the last inverse stage root is -1, since P is odd. -/
theorem inverse_half_power {p g l : Nat} (hp : 2 ≤ p) (hl : 1 ≤ l) (hdvd : 2 ^ l ∣ p - 1)
    (hg : g ^ ((p - 1) / 2) % p = p - 1) :
    (((g : ZMod p) ^ ((p - 1) / 2 ^ l)) ^ (p - 2)) ^ 2 ^ (l - 1) = -1 := by
  have heven : 2 ∣ p - 1 := (dvd_pow_self 2 (by omega)).trans hdvd
  have hodd : Odd (p - 2) := Nat.odd_iff.mpr (by omega)
  rw [pow_right_comm, forward_half_power hp hl hdvd hg, hodd.neg_one_pow]

/-- No forward stage root is 0, since each has the power -1 (R116). -/
theorem forwardRoot_ne_zero {p g l j : Nat} (hp : 2 ≤ p) (hdvd : 2 ^ l ∣ p - 1)
    (hg : g ^ ((p - 1) / 2) % p = p - 1) (h1 : 1 ≤ j) (hj : j ≤ l) : forwardRoot p g j ≠ 0 := by
  intro h0
  have : Fact (1 < p) := ⟨hp⟩
  have hpower : (forwardRoot p g j : ZMod p) ^ 2 ^ (j - 1) = -1 := by
    rw [natCast_forwardRoot g hdvd hj, ← pow_mul, ← pow_add, show l - j + (j - 1) = l - 1 by omega,
      forward_half_power hp (h1.trans hj) hdvd hg]
  rw [h0, Nat.cast_zero, zero_pow (Nat.two_pow_pos _).ne'] at hpower
  exact neg_ne_zero.mpr one_ne_zero hpower.symm

end Sys2Proof.Machine
end

section
/-! NTTI from the check phase to the scaled inverse transform in its bank (R114, R116). -/

namespace Sys2Proof.Machine

open Sys2Proof.Spec

/-- NTTI has no error condition when n divides P - 1 and no stage root is 0 (R116). -/
theorem firstError_ntti {k : ModSel} {l : Log2N} {s : State} (ba : BankIx) (hk : k ≠ 3) (hp : 2 ≤ s.prime k)
    (hl : FitsBank s l) (hdvd : 2 ^ l.val ∣ s.prime k - 1)
    (hroots : ∀ j, 1 ≤ j → j ≤ l.val → forwardRoot (s.prime k) (s.root k) j ≠ 0) :
    firstError (checksOf (.ntti k l ba) s) = none := by
  have hl' : l.val ≤ s.params.log2Nmax.val := hl
  have hzero : (stageRoots (s.prime k) (s.root k) l.val).any (fun f => f == 0) = false := by
    rw [stageRoots_eq, List.any_eq_false]
    intro f hf
    obtain ⟨j, hj, rfl⟩ := List.mem_map.mp hf
    obtain ⟨h1, hle⟩ := List.mem_range'_1.mp hj
    exact mt beq_iff_eq.mp (hroots j h1 (by omega))
  simp [firstError_eq_none, checksOf, Instr.wf, hk, hp, hl', hdvd, hzero]

/-- The scaling of R114: by the power P - 2 of n. -/
theorem elem_inverseNtt {p l i : Nat} (g : Nat) {a : List Nat} (ha : a.length = 2 ^ l) (hi : i < 2 ^ l) :
    elem (inverseNtt p g l a) i =
      elem (transform p l ((List.range' 1 l).map (inverseRoot p g)) a) i * (2 ^ l) ^ (p - 2) % p := by
  have hlen : i < (transform p l (inverseRoots p g l) a).length := by simpa [transform, ha] using hi
  have hscale : (2 ^ l % p) ^ (p - 2) ≡ (2 ^ l) ^ (p - 2) [MOD p] := (Nat.mod_modEq _ _).pow _
  rw [← inverseRoots_eq, elem, elem, inverseNtt, List.getD_eq_getElem _ _ (by rwa [List.length_map]), List.getElem_map,
    mulmod_eq, invmod_eq, hscale, Nat.mul_mod_mod, List.getD_eq_getElem _ _ hlen]

/-- An element of the bank after NTTI is the element of the array the loops leave, a residue (R116). -/
theorem toNat_bank_writeOf_ntti {k : ModSel} {l : Log2N} {s : State} (ba : BankIx) (hp : 2 ≤ s.prime k) {i : Nat}
    (hi : i < 2 ^ l.val) :
    ((writeOf (.ntti k l ba) s).bank ba i).toNat =
      elem (inverseNtt (s.prime k) (s.root k) l.val (s.bankPrefix ba (arrayLen l))) i := by
  have hlen : (s.bankPrefix ba (arrayLen l)).length = 2 ^ l.val := s.length_bankPrefix ba _
  refine s.toNat_bank_setBank ba (by rwa [length_inverseNtt, hlen]) ?_
  rw [← elem, elem_inverseNtt _ hlen hi]
  exact (Nat.mod_lt _ (by omega)).trans (s.prime_lt k)

/-- Settles O28: the transform with the inverse stage roots is the Fourier transform with the inverse of the last one. -/
theorem nttiIsTheInverseFourierTransform : Obligations.NttiIsTheInverseFourierTransform := by
  intro k l ba s hk hp hl1 hl _ hdvd hg
  have hchecks := firstError_ntti ba hk hp hl hdvd fun j => forwardRoot_ne_zero hp hdvd hg
  have hlen : (s.bankPrefix ba (arrayLen l)).length = 2 ^ l.val := s.length_bankPrefix ba _
  refine ⟨_, exec_ok hchecks, fun c hc => ?_⟩
  refine (toNat_bank_writeOf_ntti ba hp hc).trans ?_
  rw [elem_inverseNtt _ hlen hc, ← ZMod.natCast_eq_natCast_iff', Nat.cast_mul,
    natCast_transform (by omega) (fun j _ => natCast_inverseRoot _ hdvd) (inverse_half_power hp hl1 hdvd hg) hlen hc]
  have helem : ∀ j ∈ Finset.range (2 ^ l.val), elem (s.bankPrefix ba (arrayLen l)) j = (s.bank ba j).toNat :=
    fun j hj => s.bankPrefix_getD ba (Finset.mem_range.mp hj)
  rw [dft, Finset.sum_congr rfl fun j hj => by rw [helem j hj], mul_comm]
  push_cast
  rfl

end Sys2Proof.Machine
end

section
/-! The bit reversal bit by bit, and the permutation the swaps leave (R110, R111). -/

namespace Sys2Proof.Machine

/-- Bit t of the reversal of k bits is bit k - 1 - t (R110). -/
theorem testBit_bitrev {k t : Nat} (i : Nat) (ht : t < k) : (bitrev i k).testBit t = i.testBit (k - 1 - t) := by
  induction k generalizing i with
  | zero => omega
  | succ k ih =>
    rw [bitrev, Nat.mul_comm, Nat.testBit_two_pow_mul_add _ (bitrev_lt _ _)]
    split
    case isTrue hlow =>
      rw [ih _ hlow, ← Nat.testBit_succ, show (k - 1 - t).succ = k + 1 - 1 - t by omega]
    case isFalse hhigh =>
      obtain rfl : t = k := by omega
      simp

/-- Settles O23, by `testBit_bitrev`. -/
theorem bitrevReversesBits : Obligations.BitrevReversesBits :=
  ⟨fun i _ _ _ ht => testBit_bitrev i ht, fun i k _ => bitrev_lt i k, fun _ => rfl, by decide, by decide⟩

/-- Settles O24, by `elem_bitrevPermute`. -/
theorem swapsAreTheBitReversalPermutation : Obligations.SwapsAreTheBitReversalPermutation :=
  fun _ _ ha _ hi => elem_bitrevPermute ha hi

end Sys2Proof.Machine
end

section
/-! NTTF and NTTI from the check phase to the arrays in their bank, for every root (R112 to R116). -/

namespace Sys2Proof.Machine

open Sys2Proof.Spec

/-! ## The elements the loops leave -/

theorem stage_lt {p : Nat} (hp : 0 < p) (half r : Nat) (x : Nat → Nat) (m : Nat) : stage p half r x m < p := by
  unfold stage
  split <;> exact Nat.mod_lt _ hp

/-- Every element is a residue after at least one stage (R113). -/
theorem network_lt {p l : Nat} (hp : 0 < p) (hl : l ≠ 0) (r x : Nat → Nat) (m : Nat) : network p r x l m < p := by
  obtain ⟨s, rfl⟩ := Nat.exists_eq_succ_of_ne_zero hl
  exact stage_lt hp _ _ _ _

theorem length_bankPrefix_arrayLen (s : State) (b : BankIx) (l : Log2N) :
    (s.bankPrefix b (arrayLen l)).length = 2 ^ l.val := s.length_bankPrefix b _

/-- The transform of a bank's elements is the network on the bit-reversed bank (R111, R113). -/
theorem elem_transform_bankPrefix {p i : Nat} {l : Log2N} (s : State) (ba : BankIx) (r : Nat → Nat)
    (hi : i < 2 ^ l.val) :
    elem (transform p l.val ((List.range' 1 l.val).map r) (s.bankPrefix ba (arrayLen l))) i =
      network p r (fun m => (s.bank ba (bitrev m l.val)).toNat) l.val i := by
  have helem : ∀ m, elem (s.bankPrefix ba (arrayLen l)) (bitrev m l.val) = (s.bank ba (bitrev m l.val)).toNat :=
    fun m => s.bankPrefix_getD ba (bitrev_lt m l.val)
  rw [elem_transform r (length_bankPrefix_arrayLen s ba l) hi]
  simp only [helem]

theorem elem_forwardNtt_bankPrefix {p g i : Nat} {l : Log2N} (s : State) (ba : BankIx) (hi : i < 2 ^ l.val) :
    elem (forwardNtt p g l.val (s.bankPrefix ba (arrayLen l))) i =
      network p (forwardRoot p g) (fun m => (s.bank ba (bitrev m l.val)).toNat) l.val i := by
  rw [forwardNtt, stageRoots_eq, elem_transform_bankPrefix s ba _ hi]

/-! ## NTTF -/

/-- NTTF has no error condition when n divides P - 1 (R115). -/
theorem firstError_nttf {k : ModSel} {l : Log2N} {s : State} (ba : BankIx) (hk : k ≠ 3) (hp : 2 ≤ s.prime k)
    (hl : FitsBank s l) (hdvd : 2 ^ l.val ∣ s.prime k - 1) : firstError (checksOf (.nttf k l ba) s) = none := by
  have hl' : l.val ≤ s.params.log2Nmax.val := hl
  simp [firstError_eq_none, checksOf, Instr.wf, hk, hp, hl', hdvd]

/-- An element of the bank after NTTF is the element of the array the loops leave: a residue, or with n = 1 the element
as it was (R115). -/
theorem toNat_bank_writeOf_nttf {k : ModSel} {l : Log2N} {s : State} (ba : BankIx) (hp : 2 ≤ s.prime k) {i : Nat}
    (hi : i < 2 ^ l.val) :
    ((writeOf (.nttf k l ba) s).bank ba i).toNat =
      elem (forwardNtt (s.prime k) (s.root k) l.val (s.bankPrefix ba (arrayLen l))) i := by
  refine s.toNat_bank_setBank ba (by rwa [length_forwardNtt, length_bankPrefix_arrayLen]) ?_
  rw [← elem, elem_forwardNtt_bankPrefix s ba hi]
  obtain h0 | h0 := eq_or_ne l.val 0
  · rw [h0]
    exact (s.bank ba _).isLt
  · exact (network_lt (by omega) h0 _ _ i).trans (s.prime_lt k)

/-- Settles O25: the bank holds the array of the loops, which is the network with the forward roots. -/
theorem nttfCompletes : Obligations.NttfCompletes := by
  intro k l ba s hk hp hl _ hdvd
  have helem : ∀ i, i < 2 ^ l.val → ((writeOf (.nttf k l ba) s).bank ba i).toNat =
      network (s.prime k) (forwardRoot (s.prime k) (s.root k)) (fun m => (s.bank ba (bitrev m l.val)).toNat) l.val i :=
    fun i hi => (toNat_bank_writeOf_nttf ba hp hi).trans (elem_forwardNtt_bankPrefix s ba hi)
  refine ⟨_, exec_ok (firstError_nttf ba hk hp hl hdvd), rfl, ?_, fun h0 i hi => ?_, helem,
    fun i hi => toNat_bank_writeOf_nttf ba hp hi, fun a ha => readByte_writeOf_outside (storedEnd_nttf k l ba s ▸ ha)⟩
  · rintro rfl
    exact BitVec.eq_of_toNat_eq (helem 0 (by decide))
  · exact (helem i hi).trans_lt (network_lt (by omega) (Fin.val_ne_zero_iff.mpr h0) _ _ i)

/-! ## NTTI -/

/-- Settles O26: the bank holds the array of the loops, which is the network with the inverse roots, scaled. -/
theorem nttiCompletes : Obligations.NttiCompletes := by
  intro k l ba s hk hp hl _ hdvd hroots
  have hp0 : 0 < s.prime k := by omega
  have helem : ∀ i, i < 2 ^ l.val → ((writeOf (.ntti k l ba) s).bank ba i).toNat =
      network (s.prime k) (inverseRoot (s.prime k) (s.root k)) (fun m => (s.bank ba (bitrev m l.val)).toNat) l.val i *
        (2 ^ l.val) ^ (s.prime k - 2) % s.prime k := fun i hi => by
    rw [toNat_bank_writeOf_ntti ba hp hi, elem_inverseNtt _ (length_bankPrefix_arrayLen s ba l) hi,
      elem_transform_bankPrefix s ba _ hi]
  refine ⟨_, exec_ok (firstError_ntti ba hk hp hl hdvd hroots), rfl, ?_, fun i hi => ?_, helem,
    fun i hi => toNat_bank_writeOf_ntti ba hp hi, fun a ha => readByte_writeOf_outside (storedEnd_ntti k l ba s ▸ ha)⟩
  · rintro rfl
    refine (helem 0 (by decide)).trans ?_
    simp [network, bitrev]
  · exact (helem i hi).trans_lt (Nat.mod_lt _ hp0)

end Sys2Proof.Machine
end

section
/-! NTTF as the Fourier transform for a root whose power (P-1)/2 is -1 (R115, log 15). -/

namespace Sys2Proof.Machine

open Sys2Proof.Spec

theorem dft_congr {R : Type} [CommRing R] {n : Nat} {x y : Nat → R} (h : ∀ j, j < n → x j = y j) (ρ : R) (c : Nat) :
    dft n ρ x c = dft n ρ y c :=
  Finset.sum_congr rfl fun j hj => by rw [h j (Finset.mem_range.mp hj)]

/-- The elements of a bank as those of its array (R30). -/
theorem elem_bankPrefix (s : State) (b : BankIx) {n i : Nat} (hi : i < n) :
    elem (s.bankPrefix b n) i = (s.bank b i).toNat := s.bankPrefix_getD b hi

/-- Settles O27: the transform with the forward stage roots is the Fourier transform with the last one, and its elements
are residues. -/
theorem nttfIsTheFourierTransform : Obligations.NttfIsTheFourierTransform := by
  intro k l ba s hk hp hl1 hl hb hdvd hg
  obtain ⟨t, hexec, -, -, hlt, -, helem, -⟩ := nttfCompletes k l ba s hk hp hl hb hdvd
  refine ⟨t, hexec, fun c hc => ?_⟩
  have hl0 : l ≠ 0 := fun h0 => by simp [h0] at hl1
  rw [← Nat.mod_eq_of_lt (hlt hl0 c hc), ← ZMod.natCast_eq_natCast_iff', helem c hc, forwardNtt, stageRoots_eq,
    natCast_transform (by omega) (fun j _ => natCast_forwardRoot _ hdvd) (forward_half_power hp hl1 hdvd hg)
      (s.length_bankPrefix ba _) hc,
    dft_congr fun j hj => congrArg Nat.cast (elem_bankPrefix s ba hj), dft]
  push_cast
  rfl

end Sys2Proof.Machine
end

section
/-! The Fourier transform over a domain with a primitive root: it is inverted by the transform with the inverse root, and
takes the convolution of two zero-padded arrays to their pointwise product (R117, R118). -/

namespace Sys2Proof.Machine

/-- The powers of a root of unity other than 1 sum to 0, those of 1 to n. -/
theorem sum_pow_mul_inverse_pow {R : Type} [CommRing R] [IsDomain R] {n : Nat} {ω ρ : R} (hω : IsPrimitiveRoot ω n)
    (hρ : ω * ρ = 1) {i c : Nat} (hi : i < n) (hc : c < n) :
    ∑ j ∈ Finset.range n, (ω ^ i * ρ ^ c) ^ j = if i = c then (n : R) else 0 := by
  have hcancel : ∀ m, ω ^ m * ρ ^ m = 1 := fun m => by rw [← mul_pow, hρ, one_pow]
  split
  case isTrue heq => simp [heq, hcancel c]
  case isFalse hne =>
    have hone : ω ^ i * ρ ^ c ≠ 1 := fun h => hne (hω.pow_inj hi hc (by
      rw [← mul_one (ω ^ i), ← hcancel c, mul_left_comm, h, mul_one]))
    have hρn : ρ ^ n = 1 := by rw [← hcancel n, hω.pow_eq_one, one_mul]
    have hn : (ω ^ i * ρ ^ c) ^ n = 1 := by
      rw [mul_pow, pow_right_comm, hω.pow_eq_one, pow_right_comm, hρn, one_pow, one_pow, one_mul]
    have hgeom := mul_neg_geom_sum (ω ^ i * ρ ^ c) n
    rw [hn, sub_self] at hgeom
    exact (mul_eq_zero.mp hgeom).resolve_left (sub_ne_zero.mpr hone.symm)

/-- The transform with the inverse root undoes the transform, up to the factor n (R117). -/
theorem dft_inverse_dft {R : Type} [CommRing R] [IsDomain R] {n : Nat} {ω ρ : R} (hω : IsPrimitiveRoot ω n)
    (hρ : ω * ρ = 1) (y : Nat → R) {c : Nat} (hc : c < n) : dft n ρ (dft n ω y) c = n * y c := by
  calc dft n ρ (dft n ω y) c
      = ∑ j ∈ Finset.range n, ∑ i ∈ Finset.range n, y i * (ω ^ i * ρ ^ c) ^ j := by
        refine Finset.sum_congr rfl fun j _ => ?_
        rw [dft, Finset.sum_mul]
        refine Finset.sum_congr rfl fun i _ => ?_
        rw [mul_pow, ← pow_mul, ← pow_mul, Nat.mul_comm j c, mul_assoc]
    _ = ∑ i ∈ Finset.range n, y i * ∑ j ∈ Finset.range n, (ω ^ i * ρ ^ c) ^ j := by
        rw [Finset.sum_comm]
        simp only [Finset.mul_sum]
    _ = ∑ i ∈ Finset.range n, y i * if i = c then (n : R) else 0 :=
        Finset.sum_congr rfl fun i hi => by rw [sum_pow_mul_inverse_pow hω hρ (Finset.mem_range.mp hi) hc]
    _ = n * y c := by
        rw [Finset.sum_eq_single_of_mem c (Finset.mem_range.mpr hc) fun i _ hne => by rw [if_neg hne, mul_zero],
          if_pos rfl, mul_comm]

/-- The linear convolution of two arrays. -/
def convolution {R : Type} [CommSemiring R] (a b : Nat → R) (c : Nat) : R := ∑ i ∈ Finset.range (c + 1), a i * b (c - i)

/-- The transform of the convolution of two zero-padded arrays is the product of their transforms (R118). -/
theorem dft_convolution {R : Type} [CommRing R] {n la lb : Nat} (hlen : la + lb ≤ n) {a b : Nat → R}
    (ha : ∀ i, la ≤ i → i < n → a i = 0) (hb : ∀ i, lb ≤ i → i < n → b i = 0) (ω : R) (c : Nat) :
    dft n ω (convolution a b) c = dft n ω a c * dft n ω b c := by
  have hpadded : ∀ i ∈ Finset.range n, ∀ j ∈ Finset.range n, j ∉ Finset.range (n - i) →
      a i * ω ^ (i * c) * (b j * ω ^ (j * c)) = 0 := fun i hi j hj hout => by
    simp only [Finset.mem_range] at hi hj hout
    obtain hla | hlb : la ≤ i ∨ lb ≤ j := by omega
    · rw [ha i hla hi, zero_mul, zero_mul]
    · rw [hb j hlb hj, zero_mul, mul_zero]
  calc dft n ω (convolution a b) c
      = ∑ m ∈ Finset.range n, ∑ i ∈ Finset.range (m + 1), a i * ω ^ (i * c) * (b (m - i) * ω ^ ((m - i) * c)) := by
        refine Finset.sum_congr rfl fun m _ => ?_
        rw [convolution, Finset.sum_mul]
        refine Finset.sum_congr rfl fun i hi => ?_
        have hsplit : ω ^ (m * c) = ω ^ (i * c) * ω ^ ((m - i) * c) := by
          rw [← pow_add, ← Nat.add_mul, Nat.add_sub_cancel' (Finset.mem_range_succ_iff.mp hi)]
        rw [hsplit, mul_mul_mul_comm]
    _ = ∑ i ∈ Finset.range n, ∑ j ∈ Finset.range (n - i), a i * ω ^ (i * c) * (b j * ω ^ (j * c)) :=
        Finset.sum_range_diag_flip n fun i j => a i * ω ^ (i * c) * (b j * ω ^ (j * c))
    _ = ∑ i ∈ Finset.range n, ∑ j ∈ Finset.range n, a i * ω ^ (i * c) * (b j * ω ^ (j * c)) :=
        Finset.sum_congr rfl fun i hi =>
          Finset.sum_subset (Finset.range_subset_range.mpr (Nat.sub_le n i)) (hpadded i hi)
    _ = dft n ω a c * dft n ω b c := by rw [dft, dft, Finset.sum_mul_sum]

/-- The same for the convolution of two arrays of exact numbers. -/
theorem dft_natCast_convolution {R : Type} [CommRing R] {n la lb : Nat} (hlen : la + lb ≤ n) {a b : Nat → Nat}
    (ha : ∀ i, la ≤ i → i < n → a i = 0) (hb : ∀ i, lb ≤ i → i < n → b i = 0) (ω : R) (c : Nat) :
    dft n ω (fun i => ((convolution a b i : Nat) : R)) c =
      dft n ω (fun i => (a i : R)) c * dft n ω (fun i => (b i : R)) c := by
  rw [← dft_convolution hlen (fun i hlo hhi => by rw [ha i hlo hhi, Nat.cast_zero])
    (fun i hlo hhi => by rw [hb i hlo hhi, Nat.cast_zero])]
  exact dft_congr (fun i _ => by simp only [convolution, Nat.cast_sum, Nat.cast_mul]) ω c

end Sys2Proof.Machine
end

section
/-! The arrays of NTTF and NTTI under conditions (b) and (c) of R117, n = 1 included: the transform with a root of order
n, and its inverse. -/

namespace Sys2Proof.Machine

open Sys2Proof.Spec

/-- The root of the last stage modulo P, of order n = 2^l under condition (c) of R117 (R112). -/
def lastRoot (p g l : Nat) : ZMod p := (g : ZMod p) ^ ((p - 1) / 2 ^ l)

theorem isPrimitiveRoot_lastRoot {p g l : Nat} (h : GoodRoot p g (2 ^ l)) :
    IsPrimitiveRoot (lastRoot p g l) (2 ^ l) := by
  obtain ⟨-, horder⟩ := h
  exact IsPrimitiveRoot.iff_orderOf.mpr horder

theorem lastRoot_ne_zero {p g l : Nat} [Fact p.Prime] (h : GoodRoot p g (2 ^ l)) : lastRoot p g l ≠ 0 :=
  (isPrimitiveRoot_lastRoot h).ne_zero (Nat.two_pow_pos l).ne'

/-- A primitive root meets condition (c) of R117 for every n that divides P - 1. -/
theorem goodRoot_of_orderOf {p g n : Nat} (hp : p.Prime) (hn : 0 < n) (hdvd : n ∣ p - 1)
    (hg : orderOf (g : ZMod p) = p - 1) : GoodRoot p g n := by
  have hpred : 0 < p - 1 := Nat.sub_pos_of_lt hp.one_lt
  refine ⟨hp, ?_⟩
  rw [orderOf_pow_of_dvd (Nat.div_pos (Nat.le_of_dvd hpred hdvd) hn).ne' (hg.symm ▸ Nat.div_dvd_of_dvd hdvd), hg,
    Nat.div_div_self hdvd hpred.ne']

/-- The transform of the loops with stage roots from a root of order n; with n = 1 there is no stage. -/
theorem natCast_transform_of_isPrimitiveRoot {p l : Nat} (hp : p.Prime) {r : Nat → Nat} {ω : ZMod p}
    (hω : IsPrimitiveRoot ω (2 ^ l)) (hr : ∀ j, 1 ≤ j → j ≤ l → (r j : ZMod p) = ω ^ 2 ^ (l - j)) {a : List Nat}
    (ha : a.length = 2 ^ l) {c : Nat} (hc : c < 2 ^ l) :
    (elem (transform p l ((List.range' 1 l).map r) a) c : ZMod p) = dft (2 ^ l) ω (fun j => (elem a j : ZMod p)) c := by
  cases l with
  | zero =>
    obtain rfl : c = 0 := Nat.lt_one_iff.mp hc
    rw [elem_transform r ha hc]
    simp [network, dft, bitrev]
  | succ l =>
    have : Fact p.Prime := ⟨hp⟩
    have hhalf : IsPrimitiveRoot (ω ^ 2 ^ l) 2 := hω.pow (Nat.two_pow_pos _) (pow_succ 2 l)
    exact natCast_transform hp.pos hr hhalf.eq_neg_one_of_two_right ha hc

/-- The array of NTTF is the Fourier transform (R115). -/
theorem natCast_forwardNtt {p g l : Nat} (h : GoodRoot p g (2 ^ l)) (hdvd : 2 ^ l ∣ p - 1) {a : List Nat}
    (ha : a.length = 2 ^ l) {c : Nat} (hc : c < 2 ^ l) :
    (elem (forwardNtt p g l a) c : ZMod p) =
      dft (2 ^ l) (lastRoot p g l) (fun j => (elem a j : ZMod p)) c := by
  obtain ⟨hp, -⟩ := id h
  rw [forwardNtt, stageRoots_eq]
  exact natCast_transform_of_isPrimitiveRoot hp (isPrimitiveRoot_lastRoot h)
    (fun j _ => natCast_forwardRoot g hdvd) ha hc

/-- Modulo a prime the power P - 2 is the inverse (R92). -/
theorem pow_sub_two_eq_inv {p : Nat} [Fact p.Prime] {x : ZMod p} (hx : x ≠ 0) : x ^ (p - 2) = x⁻¹ := by
  have h2 := (Fact.out : p.Prime).two_le
  refine eq_inv_of_mul_eq_one_left ?_
  rw [← pow_succ, show p - 2 + 1 = p - 1 by omega, ZMod.pow_card_sub_one_eq_one hx]

/-- The array of NTTI is the Fourier transform with the inverse root, divided by n (R114, R116). -/
theorem natCast_inverseNtt {p g l : Nat} [Fact p.Prime] (h : GoodRoot p g (2 ^ l)) (hdvd : 2 ^ l ∣ p - 1) {a : List Nat}
    (ha : a.length = 2 ^ l) {c : Nat} (hc : c < 2 ^ l) :
    (elem (inverseNtt p g l a) c : ZMod p) =
      dft (2 ^ l) (lastRoot p g l)⁻¹ (fun j => (elem a j : ZMod p)) c * ((2 ^ l : Nat) : ZMod p)⁻¹ := by
  have hω := isPrimitiveRoot_lastRoot h
  have hω0 := lastRoot_ne_zero h
  have hn : NeZero ((2 ^ l : Nat) : ZMod p) := hω.neZero'
  have hr : ∀ j, 1 ≤ j → j ≤ l →
      (inverseRoot p g j : ZMod p) = (lastRoot p g l)⁻¹ ^ 2 ^ (l - j) := fun j _ hj => by
    rw [natCast_inverseRoot g hdvd hj, ← lastRoot, pow_sub_two_eq_inv hω0]
  rw [elem_inverseNtt g ha hc, ZMod.natCast_mod, Nat.cast_mul, Nat.cast_pow (2 ^ l), pow_sub_two_eq_inv hn.ne,
    natCast_transform_of_isPrimitiveRoot Fact.out hω.inv hr ha hc]

/-- NTTI of an array that is the transform of numbers leaves their residues (R117). -/
theorem elem_inverseNtt_of_dft {p g l : Nat} (h : GoodRoot p g (2 ^ l)) (hdvd : 2 ^ l ∣ p - 1) {a : List Nat}
    (ha : a.length = 2 ^ l) {y : Nat → Nat}
    (hy : ∀ j, j < 2 ^ l → (elem a j : ZMod p) =
      dft (2 ^ l) (lastRoot p g l) (fun i => (y i : ZMod p)) j) {c : Nat} (hc : c < 2 ^ l) :
    elem (inverseNtt p g l a) c = y c % p := by
  obtain ⟨hp, -⟩ := id h
  have : Fact p.Prime := ⟨hp⟩
  have hω := isPrimitiveRoot_lastRoot h
  have hω0 := lastRoot_ne_zero h
  have hn : NeZero ((2 ^ l : Nat) : ZMod p) := hω.neZero'
  have hresidue : elem (inverseNtt p g l a) c % p = elem (inverseNtt p g l a) c := by
    rw [elem_inverseNtt g ha hc, Nat.mod_mod]
  rw [← hresidue, ← ZMod.natCast_eq_natCast_iff', natCast_inverseNtt h hdvd ha hc, dft_congr hy,
    dft_inverse_dft hω (mul_inv_cancel₀ hω0) _ hc, mul_comm, inv_mul_cancel_left₀ hn.ne]

/-- No forward stage root is 0, since each is a power of a root of unity (R116). -/
theorem forwardRoot_ne_zero_of_goodRoot {p g l j : Nat} (h : GoodRoot p g (2 ^ l)) (hdvd : 2 ^ l ∣ p - 1) (hj : j ≤ l) :
    forwardRoot p g j ≠ 0 := by
  obtain ⟨hp, -⟩ := id h
  have : Fact p.Prime := ⟨hp⟩
  intro h0
  have hcast := natCast_forwardRoot g hdvd hj
  rw [h0, Nat.cast_zero] at hcast
  exact pow_ne_zero _ (lastRoot_ne_zero h) hcast.symm

end Sys2Proof.Machine
end

section
/-! NTTF then NTTI, and the product of two transforms, from the check phase to the bank (R117, R118). -/

namespace Sys2Proof.Machine

open Sys2Proof.Spec

/-! ## What a command leaves that writes one bank -/

/-- The modulus descriptors and the parameters of a state that only wrote memory are those of before. -/
theorem descriptors_of_onlyMemory {s t : State} (h : OnlyMemory s t) (k : ModSel) :
    t.params = s.params ∧ t.prime k = s.prime k ∧ t.root k = s.root k := by
  rw [OnlyMemory] at h
  rw [h]
  exact ⟨rfl, rfl, rfl⟩

theorem hasBank_congr {s t : State} {b : BankIx} (h : t.params = s.params) (hb : HasBank s b) : HasBank t b := by
  rwa [HasBank, h]

/-- A bank's element depends on memory and the number of resets only (R30, R39). -/
theorem bank_of_mem {s t : State} (hmem : t.mem = s.mem) (hepoch : t.epoch = s.epoch) (b : BankIx) (i : Nat) :
    t.bank b i = s.bank b i :=
  State.bank_congr fun _ _ _ => State.readByte_congr (by rw [hmem]) hepoch

/-- Two banks share no element (R51). -/
theorem bank_apart_of_ne (p : Config.Params) {b ba : BankIx} (hne : b ≠ ba) {n j : Nat} (hn : n ≤ p.nmax) (hj : j < n) :
    bankAddr b j + 4 ≤ bankAddr ba 0 ∨ bankAddr ba n ≤ bankAddr b j := by
  have hmax := nmax_le p
  simp only [bankAddr, Config.bankBase, Config.bankStride]
  obtain h | h := Nat.lt_or_gt_of_ne (Fin.val_ne_iff.mpr hne) <;> omega

/-- What leaves every byte outside the first n elements of a bank leaves the first n elements of every other bank. -/
theorem bank_of_readByte_outside {s t : State} {ba : BankIx} {n : Nat} (hn : n ≤ s.params.nmax)
    (h : ∀ a, a < bankAddr ba 0 ∨ bankAddr ba n ≤ a → t.readByte a = s.readByte a) {b : BankIx} (hne : b ≠ ba) {j : Nat}
    (hj : j < n) : t.bank b j = s.bank b j := by
  have hapart := bank_apart_of_ne s.params hne hn hj
  exact State.bank_congr fun a hlo hhi => h a (by omega)

/-! ## The commands under conditions (b) and (c) of R117 -/

/-- The core takes a transform of 2^LOG2N elements, modulo the prime p and with the root g that meet (b) and (c). -/
structure GoodTransform (k : ModSel) (l : Log2N) (p g : Nat) (s : State) : Prop where
  msel : k ≠ 3
  prime_eq : s.prime k = p
  root_eq : s.root k = g
  fits : FitsBank s l
  dvd : 2 ^ l.val ∣ p - 1
  good : GoodRoot p g (2 ^ l.val)

theorem GoodTransform.congr {k : ModSel} {l : Log2N} {p g : Nat} {s t : State} (hs : GoodTransform k l p g s)
    (hparams : t.params = s.params) (hprime : t.prime k = s.prime k) (hroot : t.root k = s.root k) :
    GoodTransform k l p g t where
  msel := hs.msel
  prime_eq := hprime.trans hs.prime_eq
  root_eq := hroot.trans hs.root_eq
  fits := by
    rw [FitsBank, hparams]
    exact hs.fits
  dvd := hs.dvd
  good := hs.good

theorem GoodTransform.of_onlyMemory {k : ModSel} {l : Log2N} {p g : Nat} {s t : State} (hs : GoodTransform k l p g s)
    (h : OnlyMemory s t) : GoodTransform k l p g t := by
  obtain ⟨hparams, hprime, hroot⟩ := descriptors_of_onlyMemory h k
  exact hs.congr hparams hprime hroot

/-- NTTF leaves the Fourier transform of its bank, n = 1 included, and the other banks as they were (R115). -/
theorem nttf_of_goodTransform {k : ModSel} {l : Log2N} {p g : Nat} {s : State} (hs : GoodTransform k l p g s)
    {ba : BankIx} (hb : HasBank s ba) :
    ∃ t, exec (.nttf k l ba) s = .next t ∧ OnlyMemory s t ∧
      (∀ c, c < 2 ^ l.val → ((t.bank ba c).toNat : ZMod p) =
        dft (2 ^ l.val) (lastRoot p g l.val) (fun i => ((s.bank ba i).toNat : ZMod p)) c) ∧
      (∀ b, b ≠ ba → ∀ j, j < 2 ^ l.val → t.bank b j = s.bank b j) := by
  obtain ⟨hk, rfl, rfl, hl, hdvd, hgood⟩ := hs
  obtain ⟨hp, -⟩ := id hgood
  obtain ⟨t, hexec, hmem, -, -, -, helem, hout⟩ := nttfCompletes k l ba s hk hp.two_le hl hb hdvd
  have hn : 2 ^ l.val ≤ s.params.nmax := Nat.pow_le_pow_right (by decide) hl
  refine ⟨t, hexec, hmem, fun c hc => ?_, fun b hne j hj => bank_of_readByte_outside hn hout hne hj⟩
  rw [helem c hc, natCast_forwardNtt hgood hdvd (s.length_bankPrefix ba _) hc]
  exact dft_congr (fun i hi => congrArg Nat.cast (elem_bankPrefix s ba hi)) _ c

/-- NTTI of a bank that holds the Fourier transform of numbers leaves their residues (R116). -/
theorem ntti_of_goodTransform {k : ModSel} {l : Log2N} {p g : Nat} {s : State} (hs : GoodTransform k l p g s)
    {ba : BankIx} (hb : HasBank s ba) {y : Nat → Nat}
    (hy : ∀ c, c < 2 ^ l.val → ((s.bank ba c).toNat : ZMod p) =
      dft (2 ^ l.val) (lastRoot p g l.val) (fun i => (y i : ZMod p)) c) :
    ∃ t, exec (.ntti k l ba) s = .next t ∧ ∀ c, c < 2 ^ l.val → (t.bank ba c).toNat = y c % p := by
  obtain ⟨hk, rfl, rfl, hl, hdvd, hgood⟩ := hs
  obtain ⟨hp, -⟩ := id hgood
  obtain ⟨t, hexec, -, -, -, -, helem, -⟩ :=
    nttiCompletes k l ba s hk hp.two_le hl hb hdvd fun j _ hj => forwardRoot_ne_zero_of_goodRoot hgood hdvd hj
  refine ⟨t, hexec, fun c hc => (helem c hc).trans ?_⟩
  refine elem_inverseNtt_of_dft hgood hdvd (s.length_bankPrefix ba _) (fun j hj => ?_) hc
  rw [elem_bankPrefix s ba hj, hy j hj]

/-- PMUL of two transformed banks leaves the product of the two transforms (R97, R118). -/
theorem transforms_multiply {k : ModSel} {l : Log2N} {p g : Nat} {s : State} (hs : GoodTransform k l p g s)
    {ba bb : BankIx} (hne : ba ≠ bb) (hba : HasBank s ba) (hbb : HasBank s bb) :
    ∃ t1 t2 t3, exec (.nttf k l ba) s = .next t1 ∧ exec (.nttf k l bb) t1 = .next t2 ∧
      exec (.pmul k l ba bb) t2 = .next t3 ∧ GoodTransform k l p g t3 ∧ HasBank t3 ba ∧
      ∀ c, c < 2 ^ l.val → ((t3.bank ba c).toNat : ZMod p) =
        dft (2 ^ l.val) (lastRoot p g l.val) (fun i => ((s.bank ba i).toNat : ZMod p)) c *
          dft (2 ^ l.val) (lastRoot p g l.val) (fun i => ((s.bank bb i).toNat : ZMod p)) c := by
  obtain ⟨t1, hexec1, hmem1, hdft1, hother1⟩ := nttf_of_goodTransform hs hba
  obtain ⟨hparams1, -⟩ := descriptors_of_onlyMemory hmem1 k
  have hs1 := hs.of_onlyMemory hmem1
  obtain ⟨t2, hexec2, hmem2, hdft2, hother2⟩ := nttf_of_goodTransform hs1 (hasBank_congr hparams1 hbb)
  obtain ⟨hparams2, -⟩ := descriptors_of_onlyMemory hmem2 k
  have hs2 := hs1.of_onlyMemory hmem2
  have hbank2 : ∀ {b}, HasBank s b → HasBank t2 b := hasBank_congr (hparams2.trans hparams1)
  obtain ⟨hp, -⟩ := id hs2.good
  obtain ⟨t3, hexec3, hmem3, hproduct, -⟩ :=
    pmulCompletes k l ba bb t2 hs2.msel (hs2.prime_eq ▸ hp.two_le) hs2.fits (hbank2 hba) (hbank2 hbb)
  obtain ⟨hparams3, -⟩ := descriptors_of_onlyMemory hmem3 k
  refine ⟨t1, t2, t3, hexec1, hexec2, hexec3, hs2.of_onlyMemory hmem3, hasBank_congr hparams3 (hbank2 hba),
    fun c hc => ?_⟩
  rw [hproduct c hc, hs2.prime_eq, ZMod.natCast_mod, Nat.cast_mul, hother2 ba hne c hc, hdft1 c hc, hdft2 c hc]
  congr 1
  exact dft_congr (fun j hj => by rw [hother1 bb hne.symm j hj]) _ c

/-! ## The statements -/

/-- Settles O29: NTTF leaves the transform of the bank, so that NTTI, on the same memory, leaves the bank's residues. -/
theorem inverseTransformUndoesTransform : Obligations.InverseTransformUndoesTransform := by
  refine ⟨fun k l ba s hk hl hb hdvd hgood => ?_, fun p g n hp hn hdvd hg => goodRoot_of_orderOf hp hn hdvd hg⟩
  have hs : GoodTransform k l (s.prime k) (s.root k) s := ⟨hk, rfl, rfl, hl, hdvd, hgood⟩
  obtain ⟨t, hexec, hmem, hdft, -⟩ := nttf_of_goodTransform hs hb
  obtain ⟨hparams, -⟩ := descriptors_of_onlyMemory hmem k
  refine ⟨t, hexec, fun v hvmem hvepoch hvparams hvprime hvroot => ?_⟩
  have hvs := hvparams.trans hparams
  obtain ⟨u, hexec', hvalue⟩ := ntti_of_goodTransform (hs.congr hvs hvprime hvroot) (hasBank_congr hvs hb) fun c hc => by
    rw [bank_of_mem hvmem hvepoch, hdft c hc]
  refine ⟨u, hexec', fun i hi => ⟨hvalue i hi, fun hlt => BitVec.eq_of_toNat_eq ?_⟩⟩
  rw [hvalue i hi, Nat.mod_eq_of_lt hlt]

/-- Settles O30: the product of the two transforms is the transform of the convolution, so that NTTI leaves its
residues. -/
theorem transformsConvolve : Obligations.TransformsConvolve := by
  intro k l ba bb s la lb hk hne hl hba hbb hdvd hgood hlen _ hpada hpadb
  obtain ⟨t1, t2, t3, hexec1, hexec2, hexec3, hs3, hba3, hproduct⟩ :=
    transforms_multiply ⟨hk, rfl, rfl, hl, hdvd, hgood⟩ hne hba hbb
  obtain ⟨t4, hexec4, hvalue⟩ := ntti_of_goodTransform hs3 hba3 fun c hc => by
    rw [hproduct c hc, ← dft_natCast_convolution hlen]
    · exact fun i hlo hhi => congrArg BitVec.toNat (hpada i hlo hhi)
    · exact fun i hlo hhi => congrArg BitVec.toNat (hpadb i hlo hhi)
  refine ⟨t1, t2, t3, t4, hexec1, hexec2, hexec3, hexec4, fun c hc => ⟨hvalue c hc, fun hlt => ?_⟩⟩
  exact (hvalue c hc).trans (Nat.mod_eq_of_lt hlt)

end Sys2Proof.Machine
end

section
/-! Garner's combination (R132) as one step done twice: a digit of weight M is added that gives the number its residue
modulo P and leaves the residues modulo the divisors of M. -/

namespace Sys2Proof.Machine

/-! ## One step of the combination -/

/-- The mixed-radix digit of R132: the difference of the residue r and the number y so far, times the inverse of the
weight m, modulo p. -/
def garnerDigit (y m r p : Nat) : Nat := mulmod (r % p + p - y % p) (invmod (m % p) p) p

/-- The number y below the weight m with the next digit, for the residue r modulo p. -/
def garnerStep (y m r p : Nat) : Nat := y + garnerDigit y m r p * m

/-- Both lines of R132 that follow x1 are the step. -/
theorem garner_eq (p1 p2 p3 r1 r2 r3 : Nat) :
    garner p1 p2 p3 r1 r2 r3 = garnerStep (garnerStep (r1 % p1) p1 r2 p2) (p1 * p2) r3 p3 := rfl

/-- The digit with the inverse as the power of R92. -/
theorem garnerDigit_eq (y m r p : Nat) :
    garnerDigit y m r p = (r % p + p - y % p) * (m % p) ^ (p - 2) % p := by
  rw [garnerDigit, mulmod_eq, invmod_eq, Nat.mul_mod_mod]

theorem garnerStep_lt {y m p : Nat} (hy : y < m) (hp : 0 < p) (r : Nat) : garnerStep y m r p < m * p := by
  have hdigit : garnerDigit y m r p + 1 ≤ p := mulmod_lt _ _ hp
  calc y + garnerDigit y m r p * m
      < m + garnerDigit y m r p * m := Nat.add_lt_add_right hy _
    _ = m * (garnerDigit y m r p + 1) := by ring
    _ ≤ m * p := Nat.mul_le_mul_left m hdigit

/-- The step keeps every residue its weight is a multiple of. -/
theorem garnerStep_mod_of_dvd {d m : Nat} (h : d ∣ m) (y r p : Nat) : garnerStep y m r p % d = y % d :=
  (Nat.modEq_zero_iff_dvd.mpr (h.mul_left _)).add_left y

/-- The step gives the residue modulo a prime: the inverse of the weight cancels the weight (R92, R132). -/
theorem garnerStep_mod_prime {m p : Nat} (hp : p.Prime) (hm : m % p ≠ 0) (y r : Nat) :
    garnerStep y m r p % p = r % p := by
  have hinverse : invmod (m % p) p * m ≡ 1 [MOD p] := by
    have h : m % p * invmod (m % p) p % p = 1 := mul_invmod_mod_prime hp (by rwa [Nat.mod_mod])
    rw [Nat.ModEq, Nat.mul_comm, ← Nat.mod_mul_mod, h, Nat.mod_eq_of_lt hp.one_lt]
  have hdigit : garnerDigit y m r p * m ≡ r % p + p - y % p [MOD p] := by
    rw [garnerDigit, mulmod_eq]
    calc (r % p + p - y % p) * invmod (m % p) p % p * m
        ≡ (r % p + p - y % p) * invmod (m % p) p * m [MOD p] := (Nat.mod_modEq _ p).mul_right m
      _ = (r % p + p - y % p) * (invmod (m % p) p * m) := Nat.mul_assoc _ _ _
      _ ≡ (r % p + p - y % p) * 1 [MOD p] := hinverse.mul_left _
      _ = r % p + p - y % p := Nat.mul_one _
  have hyp : y % p < p := Nat.mod_lt _ hp.pos
  calc garnerStep y m r p
      ≡ y % p + (r % p + p - y % p) [MOD p] := (Nat.mod_modEq y p).symm.add hdigit
    _ = r % p + p := by omega
    _ ≡ r % p [MOD p] := Nat.add_modEq_right
    _ ≡ r [MOD p] := Nat.mod_modEq r p

/-! ## Both steps -/

/-- The Garner value lies below the product of the moduli (R132). -/
theorem garner_lt {p1 p2 p3 : Nat} (h1 : 0 < p1) (h2 : 0 < p2) (h3 : 0 < p3) (r1 r2 r3 : Nat) :
    garner p1 p2 p3 r1 r2 r3 < p1 * p2 * p3 :=
  garnerStep_lt (garnerStep_lt (Nat.mod_lt r1 h1) h2 r2) h3 r3

/-- For distinct primes the Garner value has the three residues (R132). -/
theorem garner_residues {p1 p2 p3 : Nat} (h1 : p1.Prime) (h2 : p2.Prime) (h3 : p3.Prime) (h12 : p1 ≠ p2)
    (h13 : p1 ≠ p3) (h23 : p2 ≠ p3) (r1 r2 r3 : Nat) :
    garner p1 p2 p3 r1 r2 r3 % p1 = r1 % p1 ∧ garner p1 p2 p3 r1 r2 r3 % p2 = r2 % p2 ∧
      garner p1 p2 p3 r1 r2 r3 % p3 = r3 % p3 := by
  have hinv12 : p1 % p2 ≠ 0 := fun h => h12 ((Nat.prime_dvd_prime_iff_eq h2 h1).mp (Nat.dvd_of_mod_eq_zero h)).symm
  have hinv123 : p1 * p2 % p3 ≠ 0 := fun h =>
    (h3.dvd_mul.mp (Nat.dvd_of_mod_eq_zero h)).elim
      (fun hdvd => h13 ((Nat.prime_dvd_prime_iff_eq h3 h1).mp hdvd).symm)
      (fun hdvd => h23 ((Nat.prime_dvd_prime_iff_eq h3 h2).mp hdvd).symm)
  rw [garner_eq]
  refine ⟨?_, ?_, garnerStep_mod_prime h3 hinv123 _ r3⟩
  · rw [garnerStep_mod_of_dvd (Dvd.intro _ rfl), garnerStep_mod_of_dvd dvd_rfl, Nat.mod_mod]
  · rw [garnerStep_mod_of_dvd (Dvd.intro_left _ rfl), garnerStep_mod_prime h2 hinv12]

/-- Settles O31: the digits are the powers of R92, and two numbers below the product of pairwise coprime moduli with
equal residues are equal. -/
theorem garnerIsTheChineseRemainder : Obligations.GarnerIsTheChineseRemainder := by
  refine ⟨fun p1 p2 p3 r1 r2 r3 _ _ _ => ?_,
    fun p1 p2 p3 r1 r2 r3 _ _ _ => garner_lt (by omega) (by omega) (by omega) r1 r2 r3,
    fun p1 p2 p3 r1 r2 r3 h1 h2 h3 h12 h13 h23 => ?_⟩
  · exact ⟨_, _, _, _, rfl, garnerDigit_eq .., rfl, garnerDigit_eq .., rfl⟩
  · obtain ⟨hr1, hr2, hr3⟩ := garner_residues h1 h2 h3 h12 h13 h23 r1 r2 r3
    refine ⟨⟨hr1, hr2, hr3⟩, fun x hx hx1 hx2 hx3 => ?_⟩
    have hcop12 : p1.Coprime p2 := (Nat.coprime_primes h1 h2).mpr h12
    have hcop123 : (p1 * p2).Coprime p3 :=
      Nat.Coprime.mul_left ((Nat.coprime_primes h1 h3).mpr h13) ((Nat.coprime_primes h2 h3).mpr h23)
    have hmod12 := (Nat.modEq_and_modEq_iff_modEq_mul hcop12).mp ⟨hx1.trans hr1.symm, hx2.trans hr2.symm⟩
    have hmod := (Nat.modEq_and_modEq_iff_modEq_mul hcop123).mp ⟨hmod12, hx3.trans hr3.symm⟩
    exact hmod.eq_of_lt_of_lt hx (garner_lt h1.pos h2.pos h3.pos r1 r2 r3)

end Sys2Proof.Machine
end

section
/-! CRT3 from the check phase to the Garner values in wide memory (R131, R133, R134). -/

namespace Sys2Proof.Machine

open Sys2Proof.Spec

/-- Wide memory holds a number of 128 bits as it is (R32). -/
theorem State.toNat_wide_setWide (s : State) {vs : List Nat} {i : Nat} (hi : i < vs.length)
    (h : vs.getD i 0 < 2 ^ 128) : ((s.setWide vs).wide i).toNat = vs.getD i 0 := by
  rw [State.wide_setWide s vs hi, BitVec.toNat_ofNat, Nat.mod_eq_of_lt h]

theorem garnerAll_getD (p1 p2 p3 : Nat) {i : Nat} {a b c : List Nat} (ha : i < a.length) (hb : i < b.length)
    (hc : i < c.length) :
    (garnerAll p1 p2 p3 a b c).getD i 0 = garner p1 p2 p3 (a.getD i 0) (b.getD i 0) (c.getD i 0) := by
  induction i generalizing a b c with
  | zero =>
    match a, b, c with
    | _ :: _, _ :: _, _ :: _ => rfl
  | succ i ih =>
    match a, b, c with
    | _ :: a, _ :: b, _ :: c =>
      exact ih (Nat.lt_of_succ_lt_succ ha) (Nat.lt_of_succ_lt_succ hb) (Nat.lt_of_succ_lt_succ hc)

theorem storedElems_crt3_getD {l : Log2N} (ba bb bc : BankIx) (s : State) {i : Nat} (hi : i < arrayLen l) :
    (storedElems (.crt3 l ba bb bc) s).getD i 0 = garner (s.prime 0) (s.prime 1) (s.prime 2)
      (s.bank ba i).toNat (s.bank bb i).toNat (s.bank bc i).toNat := by
  have hlen : ∀ b, i < (s.bankPrefix b (arrayLen l)).length := fun b => (s.length_bankPrefix b _).symm ▸ hi
  rw [storedElems, garnerAll_getD _ _ _ (hlen ba) (hlen bb) (hlen bc), s.bankPrefix_getD ba hi, s.bankPrefix_getD bb hi,
    s.bankPrefix_getD bc hi]

/-- The product of the three moduli is a number of 96 bits (R27). -/
theorem State.prime_product_lt (s : State) : s.prime 0 * s.prime 1 * s.prime 2 < 2 ^ 96 :=
  (Nat.mul_lt_mul'' (Nat.mul_lt_mul'' (s.prime_lt 0) (s.prime_lt 1)) (s.prime_lt 2)).trans_eq (by norm_num)

/-- CRT3 has no error condition when neither inverse is of 0 (R134). -/
theorem firstError_crt3 {l : Log2N} {s : State} (ba bb bc : BankIx) (h0 : 2 ≤ s.prime 0) (h1 : 2 ≤ s.prime 1)
    (h2 : 2 ≤ s.prime 2) (hl : FitsBank s l) (hinv12 : s.prime 0 % s.prime 1 ≠ 0)
    (hinv123 : s.prime 0 * s.prime 1 % s.prime 2 ≠ 0) : firstError (checksOf (.crt3 l ba bb bc) s) = none := by
  have hl' : l.val ≤ s.params.log2Nmax.val := hl
  simp [firstError_eq_none, checksOf, Instr.wf, h0, h1, h2, hl', hinv12, hinv123]

/-- A wide word after CRT3 is the Garner value, which fits it (R131, R133). -/
theorem toNat_wide_writeOf_crt3 {l : Log2N} {s : State} (ba bb bc : BankIx) (h0 : 0 < s.prime 0) (h1 : 0 < s.prime 1)
    (h2 : 0 < s.prime 2) {i : Nat} (hi : i < 2 ^ l.val) :
    ((writeOf (.crt3 l ba bb bc) s).wide i).toNat = garner (s.prime 0) (s.prime 1) (s.prime 2)
      (s.bank ba i).toNat (s.bank bb i).toNat (s.bank bc i).toNat := by
  have hvalue := storedElems_crt3_getD ba bb bc s hi
  have hlen : i < (storedElems (.crt3 l ba bb bc) s).length := by
    rwa [length_storedElems s rfl (by simp [Instr.opcode])]
  have hfits : (storedElems (.crt3 l ba bb bc) s).getD i 0 < 2 ^ 128 :=
    hvalue ▸ (garner_lt h0 h1 h2 _ _ _).trans (s.prime_product_lt.trans (by norm_num))
  exact (s.toNat_wide_setWide hlen hfits).trans hvalue

/-- Settles O32: the banks are read before the words are stored, and the words are Garner values. -/
theorem crt3Completes : Obligations.Crt3Completes := by
  intro l ba bb bc s h0 h1 h2 hl _ _ _ hinv12 hinv123
  have hwide : ∀ i, i < 2 ^ l.val → ((writeOf (.crt3 l ba bb bc) s).wide i).toNat =
      garner (s.prime 0) (s.prime 1) (s.prime 2) (s.bank ba i).toNat (s.bank bb i).toNat (s.bank bc i).toNat :=
    fun i => toNat_wide_writeOf_crt3 ba bb bc (by omega) (by omega) (by omega)
  refine ⟨_, exec_ok (firstError_crt3 ba bb bc h0 h1 h2 hl hinv12 hinv123), rfl, fun i hi => ?_,
    fun hp0 hp1 hp2 h01 h02 h12 i hi => ?_, fun a ha => readByte_writeOf_outside (storedEnd_crt3 l ba bb bc s ▸ ha)⟩
  · have hlt := (hwide i hi).trans_lt (garner_lt (by omega) (by omega) (by omega) _ _ _)
    exact ⟨hwide i hi, hlt.trans s.prime_product_lt, hlt⟩
  · have hres := garner_residues hp0 hp1 hp2 h01 h02 h12
      (s.bank ba i).toNat (s.bank bb i).toNat (s.bank bc i).toNat
    rwa [← hwide i hi] at hres

end Sys2Proof.Machine
end

section
/-! How many digits a CARRY writes and how many of them are significant (R144, R145, R151): the flush takes one chunk
for each digit, at base 10^DIG, of the carry out of the last coefficient, and that carry stays at or below its bound. -/

namespace Sys2Proof.Machine

open Sys2Proof.Spec

/-! ## The carry out of the last coefficient -/

/-- The carry that the walk of R143 hands to the flush. -/
def carryOut (dig : Nat) : (src : List Nat) → (c : Nat) → Nat
  | [], c => c
  | v :: vs, c => carryOut dig vs ((v + c) / 10 ^ dig)

/-- The carry out is the printed number without its walked digits (R140, R143). -/
theorem carryOut_eq (dig : Nat) (src : List Nat) (c : Nat) :
    carryOut dig src c = (c + Nat.ofDigits (10 ^ dig) src) / 10 ^ (dig * src.length) := by
  induction src generalizing c with
  | nil => simp [carryOut]
  | cons v vs ih =>
    have hstep : (c + Nat.ofDigits (10 ^ dig) (v :: vs)) / 10 ^ dig =
        (v + c) / 10 ^ dig + Nat.ofDigits (10 ^ dig) vs := by
      rw [Nat.ofDigits_cons, ← Nat.add_assoc, Nat.add_comm c, Nat.add_mul_div_left _ _ (by positivity)]
    rw [carryOut, ih, ← hstep, Nat.div_div_eq_div_mul, ← pow_add, List.length_cons, Nat.mul_succ, Nat.add_comm dig]

theorem carryOut_le {dig c : Nat} {src : List Nat} (hd : 1 ≤ dig) (hsrc : ∀ v ∈ src, v < 2 ^ 128)
    (hc : c ≤ carryBound) : carryOut dig src c ≤ carryBound := by
  induction src generalizing c with
  | nil => exact hc
  | cons v vs ih =>
    obtain ⟨hv, hvs⟩ := List.forall_mem_cons.mp hsrc
    exact ih hvs (carry_div_le hd hv hc)

/-- For a CARRY command the carry out is the number R151 bounds: what it prints, divided by B^n. -/
theorem carryOut_carrySource (s : State) (l : Log2N) (ba : BankIx) (w : Bool) (dig : Nat) :
    carryOut dig (s.carrySource l ba w) 0 = carryValue s ba w dig (2 ^ l.val) / 10 ^ (dig * 2 ^ l.val) := by
  rw [carryOut_eq, Nat.zero_add, ofDigits_carrySource, State.length_carrySource]

/-- The carry out of a CARRY stays at or below the bound of R150. -/
theorem carryOut_carrySource_le (s : State) (l : Log2N) (ba : BankIx) (w : Bool) {dig : Nat} (hd : 1 ≤ dig) :
    carryOut dig (s.carrySource l ba w) 0 ≤ carryBound :=
  carryOut_le hd (fun _ hv => State.carrySource_lt hv) (Nat.zero_le _)

/-! ## The flush chunks -/

/-- The chunks that the flush of R143 takes for the carry c: its digits at base 10^DIG. -/
def flushChunks (dig c : Nat) : Nat := (Nat.digits (10 ^ dig) c).length

/-- The flush writes whole chunks, one for each digit of the carry at base 10^DIG (R143, R145). -/
theorem length_flushDigits {dig fuel c : Nat} (hd : 1 ≤ dig) (hc : c < 2 ^ fuel) :
    (flushDigits dig fuel c).length = dig * flushChunks dig c := by
  induction fuel generalizing c with
  | zero =>
    rw [Nat.lt_one_iff.mp hc]
    simp [flushDigits, flushChunks]
  | succ fuel ih =>
    by_cases h0 : c = 0
    · simp [h0, flushChunks]
    · have hbase : 2 ≤ 10 ^ dig := (by decide : 2 ≤ 10).trans (Nat.le_self_pow (by omega) 10)
      have hrest : c / 10 ^ dig < 2 ^ fuel :=
        Nat.div_lt_of_lt_mul (hc.trans_le (by rw [pow_succ']; exact Nat.mul_le_mul_right _ hbase))
      rw [flushDigits, if_neg h0, List.length_append, length_chunkDigits, ih hrest, flushChunks, flushChunks,
        Nat.digits_def' hbase (Nat.pos_of_ne_zero h0), List.length_cons, Nat.mul_succ, Nat.add_comm]

/-- The walk writes a chunk for each coefficient and the flush one for each chunk of the carry out (R145). -/
theorem length_carryDigits {dig : Nat} (hd : 1 ≤ dig) (src : List Nat) (c : Nat) :
    (carryDigits dig src c).length = dig * src.length + dig * flushChunks dig (carryOut dig src c) := by
  induction src generalizing c with
  | nil =>
    rw [carryDigits, length_flushDigits hd Nat.lt_log2_self, List.length_nil, Nat.mul_zero, Nat.zero_add, carryOut]
  | cons v vs ih =>
    rw [carryDigits, List.length_append, length_chunkDigits, ih, List.length_cons, Nat.mul_succ, carryOut]
    omega

theorem lt_pow_flushChunks {dig : Nat} (hd : 1 ≤ dig) (c : Nat) : c < 10 ^ (dig * flushChunks dig c) := by
  rw [pow_mul]
  exact Nat.lt_base_pow_length_digits (Nat.one_lt_pow (by omega) (by decide))

/-- The last flush chunk is needed: one chunk less does not hold the carry. -/
theorem pow_pred_flushChunks_le {dig c : Nat} (hd : 1 ≤ dig) (h : flushChunks dig c ≠ 0) :
    10 ^ (dig * (flushChunks dig c - 1)) ≤ c := by
  rw [pow_mul, ← Nat.lt_digits_length_iff (Nat.one_lt_pow (by omega) (by decide)), ← flushChunks]
  omega

/-- A carry of at most 38 decimal digits is flushed in at most 38 + DIG - 1 digits (R151). -/
theorem mul_flushChunks_lt {dig c : Nat} (hd : 1 ≤ dig) (hc : c < 10 ^ 38) : dig * flushChunks dig c < 38 + dig :=
  length_flushDigits hd (Nat.lt_log2_self (n := c)) ▸ length_flushDigits_lt hd hc

/-- DCOUNT is the walked chunks and the flushed ones (R145). -/
theorem dcount_eq_of_goodCarry {s : State} {l : Log2N} {ba : BankIx} {dig : DigitCount} {w : Bool}
    (h : GoodCarry s l ba dig w) :
    (writeOf (.carry l ba dig w) s).dcount.toNat = dig.val * 2 ^ l.val +
      dig.val * flushChunks dig.val (carryValue s ba w dig.val (2 ^ l.val) / 10 ^ (dig.val * 2 ^ l.val)) := by
  have hc := firstError_of_goodCarry h
  rw [dcount_writeOf_carry hc, storedElems, length_carryDigits (dig_bounds_of_checks hc).1, State.length_carrySource,
    carryOut_carrySource]

/-- Settles O35: the flush takes as many chunks as the carry out has digits at base 10^DIG. -/
theorem dcountCountsWrittenDigits : Obligations.DcountCountsWrittenDigits := by
  intro l ba dig w s h
  obtain ⟨hd, -⟩ := dig_bounds_of_checks (firstError_of_goodCarry h)
  exact ⟨_, _, exec_ok (firstError_of_goodCarry h), dcount_eq_of_goodCarry h, lt_pow_flushChunks hd _,
    pow_pred_flushChunks_le hd⟩

/-! ## The significant digits -/

theorem topIndex_eq_zero_or (ds : List Nat) (t : Nat) : topIndex ds t = 0 ∨ ds.getD (topIndex ds t) 0 ≠ 0 := by
  induction t with
  | zero => exact .inl rfl
  | succ t ih =>
    rw [topIndex]
    split
    case isTrue => exact ih
    case isFalse hne => exact .inr hne

/-- The search of R144 passes over zeros only. -/
theorem getD_of_topIndex_lt {ds : List Nat} {t k : Nat} (hlt : topIndex ds t < k) (hk : k ≤ t) : ds.getD k 0 = 0 := by
  induction t with
  | zero => exact absurd hlt (by omega)
  | succ t ih =>
    rw [topIndex] at hlt
    split at hlt
    case isTrue hzero =>
      obtain rfl | hk := hk.eq_or_lt
      · exact hzero
      · exact ih hlt (by omega)
    case isFalse => omega

/-- From DLEN on every digit is 0 (R144). -/
theorem getD_of_significant_le {ds : List Nat} {k : Nat} (hle : significant ds ≤ k) (hk : k < ds.length) :
    ds.getD k 0 = 0 :=
  getD_of_topIndex_lt hle (Nat.le_sub_one_of_lt hk)

/-- The digit below DLEN is not 0, but for a search that ended at a 0 in index 0 (R144). -/
theorem getD_pred_significant_ne_zero_or (ds : List Nat) :
    ds.getD (significant ds - 1) 0 ≠ 0 ∨ significant ds = 1 ∧ ds.getD 0 0 = 0 := by
  by_cases htop : ds.getD (significant ds - 1) 0 = 0
  · have hindex : topIndex ds (ds.length - 1) = 0 := (topIndex_eq_zero_or ds _).resolve_right (not_not.mpr htop)
    have hsig : significant ds = 1 := congrArg (· + 1) hindex
    rw [hsig] at htop
    exact .inr ⟨hsig, htop⟩
  · exact .inl htop

/-- DLEN reports the significant digits, which are too few to wrap (R144, R151). -/
theorem dlen_writeOf_carry {l : Log2N} {ba : BankIx} {dig : DigitCount} {w : Bool} {s : State}
    (h : firstError (checksOf (.carry l ba dig w) s) = none) :
    (writeOf (.carry l ba dig w) s).dlen.toNat = significant (storedElems (.carry l ba dig w) s) := by
  obtain ⟨hpos, hle⟩ := length_storedElems_carry h
  have hsig := significant_le (List.length_pos_iff.mp hpos)
  exact Nat.mod_eq_of_lt ((hsig.trans hle).trans_lt (dcap_lt s.params))

/-- A digit of DMEM below DCOUNT is 0 just where the walk gave 0 (R33, R142). -/
theorem digit_writeOf_carry_eq_zero {l : Log2N} {ba : BankIx} {dig : DigitCount} {w : Bool} {s : State} {k : Nat}
    (hk : k < (storedElems (.carry l ba dig w) s).length) :
    (writeOf (.carry l ba dig w) s).digit k = 0 ↔ (storedElems (.carry l ba dig w) s).getD k 0 = 0 := by
  rw [← BitVec.toNat_inj, (digit_writeOf_carry hk).1]
  rfl

/-- Settles O34: the search of R144 stops at the first digit from the top that is not 0, or at index 0. -/
theorem dlenCountsSignificantDigits : Obligations.DlenCountsSignificantDigits := by
  intro l ba dig w s h
  have hc := firstError_of_goodCarry h
  have hdlen := dlen_writeOf_carry hc
  have hdcount := dcount_writeOf_carry hc
  obtain ⟨hpos, -⟩ := length_storedElems_carry hc
  have hle := significant_le (List.length_pos_iff.mp hpos)
  refine ⟨(writeOf (.carry l ba dig w) s).succeed, exec_ok hc, ?_⟩
  simp only [State.succeed_dlen, State.succeed_dcount, hdlen, hdcount]
  refine ⟨one_le_significant _, hle,
    fun k hlo hk => (digit_writeOf_carry_eq_zero hk).mpr (getD_of_significant_le hlo hk), ?_⟩
  obtain hne | ⟨hsig, hzero⟩ := getD_pred_significant_ne_zero_or (storedElems (.carry l ba dig w) s)
  · exact .inl (mt (digit_writeOf_carry_eq_zero (by omega)).mp hne)
  · exact .inr ⟨BitVec.eq_of_toNat_eq (hdlen.trans hsig), (digit_writeOf_carry_eq_zero hpos).mpr hzero⟩

/-! ## Digit memory is large enough -/

/-- The worked example of R151: one coefficient of 2^128 - 1 with DIG = 9 writes 45 digits, 39 of them significant. -/
theorem carryDigits_maxWide : (carryDigits 9 [2 ^ 128 - 1] 0).length = 45 ∧
    significant (carryDigits 9 [2 ^ 128 - 1] 0) = 39 := by
  decide

/-- Settles O36: the bound of R150 is below 2^125 and has 38 decimal digits, which the flush takes in at most
38 + DIG - 1 digits. -/
theorem carryFitsDigitMemory : Obligations.CarryFitsDigitMemory := by
  refine ⟨fun l ba dig w s h => ?_, fun s hs => ?_⟩
  · have hc := firstError_of_goodCarry h
    obtain ⟨hd, hd9⟩ := dig_bounds_of_checks hc
    have hout := carryOut_carrySource s l ba w dig.val ▸ carryOut_carrySource_le s l ba w hd
    have h38 := hout.trans_lt (by decide : carryBound < 10 ^ 38)
    have hflush := mul_flushChunks_lt hd h38
    have hcount := dcount_eq_of_goodCarry h
    have hmul : dig.val * 2 ^ l.val ≤ 9 * 2 ^ s.params.log2Nmax.val :=
      Nat.mul_le_mul hd9 (Nat.pow_le_pow_right (by decide) (log2n_le_of_checks hc rfl))
    refine ⟨hout.trans_lt (by decide), h38, _, _, exec_ok hc, hcount, ?_, ?_, ?_, ?_⟩
    · exact (Nat.le_div_iff_mul_le hd).mpr (by rw [Nat.mul_comm]; omega)
    · omega
    · rw [State.succeed_dcount]
      omega
    · rw [State.succeed_dcount]
      omega
  · have hgood : GoodCarry s 0 0 9 true := ⟨fun _ => rfl, nofun, Nat.zero_le _, by decide, by decide⟩
    have hsrc : s.carrySource 0 0 true = [2 ^ 128 - 1] := by
      simp [State.carrySource, State.widePrefix, arrayLen, hs]
    obtain ⟨hlen, hsig⟩ := carryDigits_maxWide
    refine ⟨_, exec_ok (firstError_of_goodCarry hgood), ?_, ?_⟩
    · rw [State.succeed_dcount, writeOf, State.putDigits_dcount, hsrc]
      exact congrArg (BitVec.ofNat 32) hlen
    · rw [State.succeed_dlen, writeOf, State.putDigits_dlen, hsrc]
      exact congrArg (BitVec.ofNat 32) hsig

end Sys2Proof.Machine
end

section
/-! The exceptions of spec/60_exceptions.md: which conditions a check phase finds and which of them it reports (R161 to
R171), how a command ends (R166, R172), and what the host's writes of STATUS and CMD do (R169, R174). -/

namespace Sys2Proof.Machine

open Sys2Proof.Spec

/-! ## The order of R167 -/

/-- The error codes in the order of R167. -/
def errorOrder : List ErrorCode := [.illegalCmd, .badModulus, .sizeTooLarge, .badSize, .badDigits, .invUndef]

theorem errorOrder_rank (e : ErrorCode) : errorOrder[rank e]? = some e := by cases e <;> rfl

theorem rank_injective : Function.Injective rank := fun d e h =>
  Option.some.inj ((errorOrder_rank d).symm.trans (h ▸ errorOrder_rank e))

/-- Every check phase lists its conditions in the order of R167. -/
theorem checksOf_sorted (i : Instr) (s : State) : (checksOf i s).Pairwise (fun c d => rank c.2 ≤ rank d.2) := by
  cases i <;> simp [checksOf, rank]

/-- Of conditions listed in the order of R167 the reported one comes before every other that holds. -/
theorem rank_firstError_le {cs : List (Bool × ErrorCode)} (hcs : cs.Pairwise (fun c d => rank c.2 ≤ rank d.2))
    {d e : ErrorCode} (hd : firstError cs = some d) (he : (true, e) ∈ cs) : rank d ≤ rank e := by
  induction hcs with
  | nil => cases he
  | @cons c cs hle _ ih =>
    obtain ⟨b, code⟩ := c
    cases b with
    | true =>
      obtain rfl : code = d := by simpa [firstError] using hd
      obtain heq | hmem := List.mem_cons.mp he
      · cases heq
        exact le_rfl
      · exact hle _ hmem
    | false => exact ih (by simpa [firstError] using hd) (by simpa using he)

/-- The reported condition is the one that holds and has none before it in the order of R167. -/
theorem firstError_eq_some_of_least {cs : List (Bool × ErrorCode)}
    (hcs : cs.Pairwise (fun c d => rank c.2 ≤ rank d.2)) {e : ErrorCode} (he : (true, e) ∈ cs)
    (hleast : ∀ e', rank e' < rank e → (true, e') ∉ cs) : firstError cs = some e := by
  cases hd : firstError cs with
  | none => exact absurd (firstError_eq_none.mp hd _ he) (by simp)
  | some d =>
    have hle : rank e ≤ rank d := not_lt.mp fun hlt => hleast d hlt (firstError_mem hd)
    rw [rank_injective (le_antisymm (rank_firstError_le hcs hd he) hle)]

/-! ## The conditions of R161 to R164, R170 and R171 -/

/-- A command is not well-formed exactly when R161 says that its word is illegal (R76, R78). -/
theorem illegalCmd_mem_checksOf_iff (i : Instr) (s : State) :
    (true, .illegalCmd) ∈ checksOf i s ↔ ErrorHolds i s .illegalCmd := by
  cases i <;> simp [checksOf, ErrorHolds, msel?, Instr.wf]

theorem badModulus_mem_checksOf_iff (i : Instr) (s : State) :
    (true, .badModulus) ∈ checksOf i s ↔ ErrorHolds i s .badModulus := by
  cases i <;> simp [checksOf, ErrorHolds, msel?, State.prime, or_assoc]

theorem sizeTooLarge_mem_checksOf_iff (i : Instr) (s : State) :
    (true, .sizeTooLarge) ∈ checksOf i s ↔ ErrorHolds i s .sizeTooLarge := by
  cases i <;> simp [checksOf, ErrorHolds, log2n?]

theorem badSize_mem_checksOf_iff (i : Instr) (s : State) :
    (true, .badSize) ∈ checksOf i s ↔ ErrorHolds i s .badSize := by
  cases i <;> simp [checksOf, ErrorHolds]

theorem badDigits_mem_checksOf_iff (i : Instr) (s : State) :
    (true, .badDigits) ∈ checksOf i s ↔ ErrorHolds i s .badDigits := by
  cases i <;> simp [checksOf, ErrorHolds]

/-- NTTI's check of its stage roots, by the powers of R112 (R171). -/
theorem any_stageRoots_eq_zero_iff (p g l : Nat) :
    (stageRoots p g l).any (fun f => f == 0) = true ↔ ∃ j, 1 ≤ j ∧ j ≤ l ∧ g ^ ((p - 1) / 2 ^ j) % p = 0 := by
  simp [stageRoots_eq, forwardRoot, Nat.lt_one_add_iff, and_assoc]

theorem invUndef_mem_checksOf_iff (i : Instr) (s : State) :
    (true, .invUndef) ∈ checksOf i s ↔ ErrorHolds i s .invUndef := by
  cases i with
  | ntti k l ba =>
    have hroots := any_stageRoots_eq_zero_iff (s.prime k) (s.root k) l.val
    simp [checksOf, ErrorHolds, hroots]
  | crt3 l ba bb bc =>
    have hholds : ErrorHolds (.crt3 l ba bb bc) s .invUndef ↔
        s.prime 0 % s.prime 1 = 0 ∨ s.prime 0 * s.prime 1 % s.prime 2 = 0 := by simp [ErrorHolds, State.prime]
    simp [checksOf, hholds]
  | _ => simp [checksOf, ErrorHolds]

/-- A check phase finds exactly the conditions that hold. -/
theorem mem_checksOf_iff (i : Instr) (s : State) (e : ErrorCode) : (true, e) ∈ checksOf i s ↔ ErrorHolds i s e := by
  cases e with
  | illegalCmd => exact illegalCmd_mem_checksOf_iff i s
  | badModulus => exact badModulus_mem_checksOf_iff i s
  | sizeTooLarge => exact sizeTooLarge_mem_checksOf_iff i s
  | badSize => exact badSize_mem_checksOf_iff i s
  | badDigits => exact badDigits_mem_checksOf_iff i s
  | invUndef => exact invUndef_mem_checksOf_iff i s

/-- Settles O9: the check phase finds the conditions that hold, and lists them in the order of R167. -/
theorem firstErrorIsReported : Obligations.FirstErrorIsReported := by
  intro i s
  refine ⟨fun e he hleast => exec_error ?_, fun hnone => ⟨_, exec_ok (i := i) ?_, by simp⟩⟩
  · exact firstError_eq_some_of_least (checksOf_sorted i s) ((mem_checksOf_iff i s e).mpr he)
      fun e' hlt hmem => hleast e' hlt ((mem_checksOf_iff i s e').mp hmem)
  · rw [firstError_eq_none]
    rintro ⟨b, e⟩ hmem
    exact Bool.eq_false_iff.mpr fun hb => hnone e ((mem_checksOf_iff i s e).mp (hb ▸ hmem))

/-! ## How a command ends -/

/-- Settles O7: an error sets ERR and the code, success sets DONE, and both clear BUSY. -/
theorem everyCommandSetsStatusAtCompletion : Obligations.EveryCommandSetsStatusAtCompletion := by
  intro i s
  obtain ⟨e, -, hs⟩ | ⟨-, hs⟩ := exec_cases i s
  · exact ⟨_, hs, .inl ⟨e, rfl⟩⟩
  · exact ⟨_, hs, .inr (congrArg Status.succeeded (writeOf_status i s))⟩

/-- Settles O8: a success leaves ERR 0, so a command that leaves it 1 is one that raised an error. -/
theorem errorsArePrecise : Obligations.ErrorsArePrecise := by
  intro i s t herr ht hset
  obtain ⟨e, -, hs⟩ | ⟨-, hs⟩ := exec_cases i s <;> cases hs.symm.trans ht
  case inl => rfl
  case inr => exact absurd hset (by simp [herr])

/-! ## What stops the machine -/

theorem State.hostAtFault_iff (s : State) (host : Nat) :
    s.hostAtFault host = true ↔ ∃ a ∈ s.answers, a.host = host ∧ a.response = .busErr := by
  simp [State.hostAtFault]

/-- The engine never stops the machine. -/
theorem complete_next (s : State) : ∃ t, complete s = .next t := by
  obtain ⟨e, hs⟩ | ⟨i, -, -, hs⟩ := complete_cases s <;> exact ⟨_, hs⟩

/-- A step has a next state, or it is the idle step that would take the next transaction of a host at fault (R176). -/
theorem step_next_or_fault (s : State) :
    (∃ t, step s = .next t) ∨
      ∃ q rest, s.status.busy = false ∧ s.held = [] ∧ s.inputs = .issue q :: rest ∧ s.hostAtFault q.host = true ∧
        step s = .fault (.hostBusError q.host) := by
  obtain ⟨-, hs⟩ | ⟨rest, -, hs⟩ | ⟨q, rest, k, -, -, -, -, -, -, hs⟩ | ⟨q, rest, k, -, -, -, -, -, -, hs⟩ |
    ⟨q, rest, -, -, hs⟩ | hfault | ⟨q, rest, -, -, -, -, hs⟩ | ⟨-, -, -, hs⟩ := step_cases s
  case inl => exact .inl (hs ▸ complete_next s)
  case inr.inr.inr.inr.inr.inl => exact .inr hfault
  all_goals exact .inl ⟨_, hs⟩

theorem step_idle_fault {s : State} {q : Issue} {rest : List Input} (hb : s.status.busy = false) (hh : s.held = [])
    (hi : s.inputs = .issue q :: rest) (hf : s.hostAtFault q.host = true) :
    step s = .fault (.hostBusError q.host) := by
  rw [step_idle_input hb hh hi, takeWhileIdle, if_pos hf]

/-- A transaction answered BUSERR only adds its answer (R52, R176). -/
theorem State.perform_of_busErr {s : State} {q : Issue} (h : (s.response q.tx).1 = .busErr) :
    s.perform q = { s with answers := ⟨q.host, q.tx, .busErr, (s.response q.tx).2⟩ :: s.answers } := by
  rw [State.perform_eq, State.effect_of_busErr h, h]

/-- Settles O54, by `step_next_or_fault` and its converse `step_idle_fault`. -/
theorem onlyHostBusErrorsStopTheMachine : Obligations.OnlyHostBusErrorsStopTheMachine := by
  refine ⟨fun s f hf => ?_, fun s q rest hb hh hi ha => ?_, fun s r hr => ?_, fun s q => State.perform_of_busErr⟩
  · obtain ⟨t, hs⟩ | ⟨q, rest, hb, hh, hi, ha, hs⟩ := step_next_or_fault s <;> cases hs.symm.trans hf
    exact ⟨q, rest, hb, hh, hi, rfl, (s.hostAtFault_iff q.host).mp ha⟩
  · exact step_idle_fault hb hh hi ((s.hostAtFault_iff q.host).mpr ha)
  · obtain ⟨t, hs⟩ | ⟨q, rest, -, -, -, -, hs⟩ := step_next_or_fault s <;> cases hs.symm.trans hr

/-! ## The pending command -/

theorem decodeTableWord_eq_some_iff {nbits w : Nat} {i : Instr} :
    decodeTableWord nbits w = some i ↔ decode (tableWord nbits w) = .ok i := by
  unfold decodeTableWord
  cases decode (tableWord nbits w) <;> simp

/-- Settles O6: the step is the completion of CMD's word, and a placed word is CMD with no wait left. -/
theorem stepRunsTheDecodedCommand : Obligations.StepRunsTheDecodedCommand := by
  refine ⟨fun s i hb hw hd => ?_, fun s e hb hw hd => ?_, fun s w i hd => ?_⟩
  · rw [step_busy_last hb hw, complete_ok hd]
  · rw [step_busy_last hb hw, complete_error hd]
  · have hcmd : decode (s.withFetchWord 32 w).cmd = .ok i := decodeTableWord_eq_some_iff.mp hd
    rw [step_busy_last rfl (.inl rfl), complete_ok hcmd]

/-! ## The host's writes of STATUS and CMD -/

/-- A write of STATUS is the core's return from an exception (R174). -/
theorem State.effect_write_status (s : State) (v : Word) : s.effect (.write 4 0x008 v) = s.clearStatus v :=
  s.effect_write_reg .status v

/-- A write of CMD is an acceptance (R169). -/
theorem State.effect_write_cmd (s : State) (v : Word) : s.effect (.write 4 0x00C v) = s.accept v :=
  s.effect_write_reg .cmd v

/-- Settles O44: bit by bit, of the two bits that clear. -/
theorem statusWriteClearsByOnes : Obligations.StatusWriteClearsByOnes := by
  intro s v
  rw [State.effect_write_status]
  refine ⟨rfl, rfl, fun h => ?_, fun h => ?_, fun h => ?_, fun h => ?_⟩ <;>
    simp [State.clearStatus, Status.clear, h, -BitVec.getLsbD_eq_getElem]

/-- Settles O45: an acceptance takes any word, and an illegal one is what the decoder refuses at completion. -/
theorem cmdWriteAcceptsTheCommand : Obligations.CmdWriteAcceptsTheCommand := by
  intro s v
  rw [State.effect_write_cmd]
  refine ⟨s.response_write_reg .cmd v, rfl, fun hill => ?_⟩
  obtain ⟨e, he⟩ := (decode_error_iff v).mpr hill
  exact complete_error (s := s.accept v) he

end Sys2Proof.Machine
end

section
/-! A pending command until its completing step (R61, R200, log 3): each input the latency lets pass is held or performed
and leaves the command's operands as they are, or it is a reset. -/

namespace Sys2Proof.Machine

/-! ## The operands of the pending command -/

/-- Everything a command reads is the same, CMD among it: only what the host reaches while a command runs may differ. -/
def SameOperands (s u : State) : Prop :=
  u = { s with
    irqEn := u.irqEn
    status := u.status
    inputs := u.inputs
    held := u.held
    answers := u.answers
    wait := u.wait }

theorem SameOperands.refl (s : State) : SameOperands s s := rfl

theorem SameOperands.trans {s t u : State} (hst : SameOperands s t) (htu : SameOperands t u) : SameOperands s u := by
  unfold SameOperands at *
  rw [htu, hst]

/-- A transaction R60 excepts reaches no operand: it writes CTRL, STATUS or nothing. -/
theorem State.effect_sameOperands {s : State} {tx : Tx} (h : tx.isHeld s.params = false) :
    SameOperands s (s.effect tx) := by
  obtain hs | ⟨v, r, hr, hs⟩ := effect_cases_of_not_held h <;> rw [hs s rfl]
  · exact .refl s
  · obtain rfl | rfl := hr <;> rfl

/-! ## The way to the completing step -/

/-- A running core completes the command, takes a reset, or uses one turn of the latency on the next transaction, and then
the command stays pending with its operands. -/
theorem step_pending_cases {s : State} (hb : s.status.busy = true) :
    step s = complete s ∨
    (∃ rest, s.inputs = .reset :: rest ∧ step s = .next { s with inputs := rest }.assertReset) ∨
    (∃ q t, s.inputs = .issue q :: t.inputs ∧ step s = .next t ∧ s.wait = t.wait + 1 ∧ t.status.busy = true ∧
      SameOperands s t) := by
  obtain ⟨-, hs⟩ | hreset | ⟨q, rest, k, -, hi, hw, -, -, -, hs⟩ |
    ⟨q, rest, k, -, hi, hw, hwait, hfault, hfree, -⟩ | ⟨-, -, hidle, -⟩ | ⟨-, -, hidle, -⟩ | ⟨-, -, hidle, -⟩ |
    ⟨hidle, -⟩ := step_cases s
  · exact .inl hs
  · exact .inr (.inl hreset)
  · exact .inr (.inr ⟨q, _, hi, hs, hw, hb, rfl⟩)
  · obtain ⟨t, hs, rfl, hbusy, -⟩ := step_busy_excepted_eq hb hw hi hwait hfault hfree
    exact .inr (.inr ⟨q, _, hi, hs, hw, hbusy, (State.effect_sameOperands hfree).trans rfl⟩)
  all_goals simp [hb] at hidle

/-- Settles O52, by induction on the latency that is left. -/
theorem pendingCommandCompletes : Obligations.PendingCommandCompletes := by
  unfold Obligations.PendingCommandCompletes
  intro s hb
  induction hw : s.wait generalizing s with
  | zero => exact ⟨0, s, le_rfl, rfl, .inl ⟨step_busy_last hb (.inl hw), hb, .refl s⟩⟩
  | succ k ih =>
    obtain hs | ⟨rest, hi, hs⟩ | ⟨q, t, hi, hs, htw, htb, hst⟩ := step_pending_cases hb
    · exact ⟨0, s, Nat.zero_le _, rfl, .inl ⟨hs, hb, .refl s⟩⟩
    · exact ⟨1, _, by omega, run_succ hs 0, .inr ⟨by simp [hi], rfl⟩⟩
    · obtain ⟨n, u, hn, hrun, hu⟩ := ih t htb (by omega)
      refine ⟨n + 1, u, by omega, (run_succ hs n).trans hrun, ?_⟩
      obtain ⟨hlast, hub, htu⟩ | ⟨hreset, hub⟩ := hu
      · exact .inl ⟨hlast, hub, hst.trans htu⟩
      · exact .inr ⟨by simp [hi, hreset], hub⟩

end Sys2Proof.Machine
end
